-- ==== Sys2Proof/Word.lean ====
section
/-! DEFINITION. The word types of chip8emu CORE (R7 of 00_scope.md): bytes, 16-bit words, the instruction fields'
types and the number of a general register. Every value is unsigned (R12). -/

namespace Sys2Proof

/-- An 8-bit value: a general register, a timer, a byte of memory (`XLEN`, `TIMER_WIDTH`, R7). -/
abbrev Byte := BitVec 8

/-- A 16-bit value: an instruction word, `pc`, `I`, a call-stack entry (R7). -/
abbrev Word := BitVec 16

/-- The 12-bit address field `NNN` (R92). -/
abbrev Addr := BitVec 12

/-- The 4-bit field `N` (R92). -/
abbrev Nibble := BitVec 4

/-- The index of a general register, the value of a field `X` or `Y` (R20, R92). -/
abbrev RegIdx := Fin 16

end Sys2Proof
end

