-- ==== Sys2Proof/Syntax.lean ====
section
/-! DEFINITION. The instructions of chip8emu CORE: one constructor for each of the 34 rows of the opcode table
(R96 of 30_encoding.md), in the table's order, and the six groups that hold reserved words (R100). -/

namespace Sys2Proof

/-- The 34 instructions (R96). `x` and `y` are register numbers, `nn` the immediate byte, `nnn` the address,
`n` the sprite height (R92). `shr` and `shl` keep the field `Y`, which their meaning ignores (R95). -/
inductive Instr where
  | cls                                   -- 00E0
  | ret                                   -- 00EE
  | jp (nnn : Addr)                       -- 1NNN
  | call (nnn : Addr)                     -- 2NNN
  | sei (x : RegIdx) (nn : Byte)          -- 3XNN
  | snei (x : RegIdx) (nn : Byte)         -- 4XNN
  | se (x y : RegIdx)                     -- 5XY0
  | sne (x y : RegIdx)                    -- 9XY0
  | ldi (x : RegIdx) (nn : Byte)          -- 6XNN
  | addi (x : RegIdx) (nn : Byte)         -- 7XNN
  | mov (x y : RegIdx)                    -- 8XY0
  | or (x y : RegIdx)                     -- 8XY1
  | and (x y : RegIdx)                    -- 8XY2
  | xor (x y : RegIdx)                    -- 8XY3
  | add (x y : RegIdx)                    -- 8XY4
  | sub (x y : RegIdx)                    -- 8XY5
  | shr (x y : RegIdx)                    -- 8XY6
  | subn (x y : RegIdx)                   -- 8XY7
  | shl (x y : RegIdx)                    -- 8XYE
  | lda (nnn : Addr)                      -- ANNN
  | jpv0 (nnn : Addr)                     -- BNNN
  | rnd (x : RegIdx) (nn : Byte)          -- CXNN
  | drw (x y : RegIdx) (n : Nibble)       -- DXYN
  | skp (x : RegIdx)                      -- EX9E
  | sknp (x : RegIdx)                     -- EXA1
  | gdt (x : RegIdx)                      -- FX07
  | wkey (x : RegIdx)                     -- FX0A
  | sdt (x : RegIdx)                      -- FX15
  | sst (x : RegIdx)                      -- FX18
  | adda (x : RegIdx)                     -- FX1E
  | glyph (x : RegIdx)                    -- FX29
  | bcd (x : RegIdx)                      -- FX33
  | stm (x : RegIdx)                      -- FX55
  | ldm (x : RegIdx)                      -- FX65
deriving DecidableEq, Repr

/-- The name under which the decoder rejects a word that is no instruction: the group of R100's table it belongs to.
Such a word is not illegal; it executes as the no-operation of R133. -/
inductive ReservedWord where
  | group0 | group5 | group8 | group9 | groupE | groupF
deriving DecidableEq, Repr

end Sys2Proof
end

