-- ==== Sys2Proof/WellFormed.lean ====
section
/-! DEFINITION. Well-formed operands. The assembler shapes and ranges of R105 (30_encoding.md) are checked on operands
given as plain numbers, and an instruction is well formed when its own operands, read as numbers, pass that check. The
operand types of `Instr` carry the bounds, so every term of `Instr` is well formed; the checks refuse numbers from
outside (an assembler's input), not terms of `Instr`. -/

namespace Sys2Proof

/-- The operand shapes of R105's syntax table. -/
inductive AsmForm where
  | none          -- CLS, RET
  | addr          -- nnn
  | regImm        -- Vx, nn
  | regReg        -- Vx, Vy
  | regRegHeight  -- Vx, Vy, n
  | reg           -- Vx
deriving DecidableEq, Repr

/-- The operands a shape takes and the range of each (R94, R105): a register number below 16, `nn` below 256,
`nnn` below 4096, `n` below 16. -/
def AsmForm.operandsOk : AsmForm → List Nat → Bool
  | .none, [] => true
  | .addr, [nnn] => decide (nnn < 4096)
  | .regImm, [x, nn] => decide (x < 16) && decide (nn < 256)
  | .regReg, [x, y] => decide (x < 16) && decide (y < 16)
  | .regRegHeight, [x, y, n] => decide (x < 16) && decide (y < 16) && decide (n < 16)
  | .reg, [x] => decide (x < 16)
  | _, _ => false

/-- The assembler shape of an instruction (R105). `shr` and `shl` are written with one register: their `Y` is
ignored (R95). -/
def Instr.asmForm : Instr → AsmForm
  | .cls | .ret => .none
  | .jp _ | .call _ | .lda _ | .jpv0 _ => .addr
  | .sei _ _ | .snei _ _ | .ldi _ _ | .addi _ _ | .rnd _ _ => .regImm
  | .se _ _ | .sne _ _ | .mov _ _ | .or _ _ | .and _ _ | .xor _ _ | .add _ _ | .sub _ _ | .subn _ _ => .regReg
  | .drw _ _ _ => .regRegHeight
  | .shr _ _ | .shl _ _ => .reg
  | .skp _ | .sknp _ | .gdt _ | .wkey _ | .sdt _ | .sst _ | .adda _ | .glyph _ | .bcd _ | .stm _ | .ldm _ => .reg

/-- The operands an assembler line gives, as numbers (R105). -/
def Instr.asmOperands : Instr → List Nat
  | .cls | .ret => []
  | .jp nnn | .call nnn | .lda nnn | .jpv0 nnn => [nnn.toNat]
  | .sei x nn | .snei x nn | .ldi x nn | .addi x nn | .rnd x nn => [x.val, nn.toNat]
  | .se x y | .sne x y | .mov x y | .or x y | .and x y | .xor x y | .add x y | .sub x y | .subn x y => [x.val, y.val]
  | .drw x y n => [x.val, y.val, n.toNat]
  | .shr x _ | .shl x _ => [x.val]
  | .skp x | .sknp x | .gdt x | .wkey x | .sdt x | .sst x | .adda x | .glyph x | .bcd x | .stm x | .ldm x => [x.val]

/-- An instruction is well formed when its operands have the shape and the ranges of R105. -/
def Instr.wellFormed (i : Instr) : Bool := i.asmForm.operandsOk i.asmOperands

end Sys2Proof
end

