-- ==== Sys2Proof/Decode.lean ====
section
/-! DEFINITION. Decoding and encoding. The decoder is the procedure of R98 (30_encoding.md), total on every word, and
rejects a reserved word by its group's name (R100). The encoder is written from the patterns of R91 and R96, field by
field. The opcode table of R96 stands here as data, with the assembler of R105 and R106. -/

namespace Sys2Proof

/-! ### Fields of an instruction word (R92) -/

/-- The group selector `w[15:12]`. -/
def groupOf (w : Word) : BitVec 4 := w.extractLsb' 12 4

/-- The field `X`, `w[11:8]`. -/
def fieldX (w : Word) : RegIdx := (w.extractLsb' 8 4).toFin

/-- The field `Y`, `w[7:4]`. -/
def fieldY (w : Word) : RegIdx := (w.extractLsb' 4 4).toFin

/-- The field `N`, `w[3:0]`. -/
def fieldN (w : Word) : Nibble := w.extractLsb' 0 4

/-- The field `NN`, `w[7:0]`. -/
def fieldNN (w : Word) : Byte := w.extractLsb' 0 8

/-- The field `NNN`, `w[11:0]`. -/
def fieldNNN (w : Word) : Addr := w.extractLsb' 0 12

/-! ### The decoder (R98) -/

/-- Group 0x0: the whole word is tested (R98, C3). -/
def decodeGroup0 (w : Word) : Except ReservedWord Instr :=
  if w = 0x00E0 then .ok .cls
  else if w = 0x00EE then .ok .ret
  else .error .group0

/-- Group 0x8: `N` selects the operation. -/
def decodeGroup8 (w : Word) : Except ReservedWord Instr :=
  let x := fieldX w
  let y := fieldY w
  match (fieldN w).toNat with
  | 0x0 => .ok (.mov x y)
  | 0x1 => .ok (.or x y)
  | 0x2 => .ok (.and x y)
  | 0x3 => .ok (.xor x y)
  | 0x4 => .ok (.add x y)
  | 0x5 => .ok (.sub x y)
  | 0x6 => .ok (.shr x y)
  | 0x7 => .ok (.subn x y)
  | 0xE => .ok (.shl x y)
  | _ => .error .group8

/-- Group 0xE: `NN` selects the operation. -/
def decodeGroupE (w : Word) : Except ReservedWord Instr :=
  let x := fieldX w
  let nn := fieldNN w
  if nn = 0x9E then .ok (.skp x)
  else if nn = 0xA1 then .ok (.sknp x)
  else .error .groupE

/-- Group 0xF: `NN` selects the operation. -/
def decodeGroupF (w : Word) : Except ReservedWord Instr :=
  let x := fieldX w
  let nn := fieldNN w
  if nn = 0x07 then .ok (.gdt x)
  else if nn = 0x0A then .ok (.wkey x)
  else if nn = 0x15 then .ok (.sdt x)
  else if nn = 0x18 then .ok (.sst x)
  else if nn = 0x1E then .ok (.adda x)
  else if nn = 0x29 then .ok (.glyph x)
  else if nn = 0x33 then .ok (.bcd x)
  else if nn = 0x55 then .ok (.stm x)
  else if nn = 0x65 then .ok (.ldm x)
  else .error .groupF

/-- The decoder of R98: an instruction, or the group under which the word is reserved. -/
def decode (w : Word) : Except ReservedWord Instr :=
  match (groupOf w).toNat with
  | 0x0 => decodeGroup0 w
  | 0x1 => .ok (.jp (fieldNNN w))
  | 0x2 => .ok (.call (fieldNNN w))
  | 0x3 => .ok (.sei (fieldX w) (fieldNN w))
  | 0x4 => .ok (.snei (fieldX w) (fieldNN w))
  | 0x5 => if fieldN w = 0 then .ok (.se (fieldX w) (fieldY w)) else .error .group5
  | 0x6 => .ok (.ldi (fieldX w) (fieldNN w))
  | 0x7 => .ok (.addi (fieldX w) (fieldNN w))
  | 0x8 => decodeGroup8 w
  | 0x9 => if fieldN w = 0 then .ok (.sne (fieldX w) (fieldY w)) else .error .group9
  | 0xA => .ok (.lda (fieldNNN w))
  | 0xB => .ok (.jpv0 (fieldNNN w))
  | 0xC => .ok (.rnd (fieldX w) (fieldNN w))
  | 0xD => .ok (.drw (fieldX w) (fieldY w) (fieldN w))
  | 0xE => decodeGroupE w
  | _ => decodeGroupF w

/-- Why a list of bytes gives no instruction. -/
inductive DecodeReject where
  /-- Fewer than two bytes: no instruction word is there (R90). -/
  | truncated
  /-- The two bytes are a reserved word of that group (R100). -/
  | reserved (g : ReservedWord)
deriving DecidableEq, Repr

/-- A word from its two bytes as memory holds them, the byte at the lower address first: big-endian (R66, R90). -/
def wordOfBytes (hi lo : Byte) : Word := hi ++ lo

/-- The decoder on bytes: it takes exactly two (R90) and answers the rest with the instruction. -/
def decodeBytes : List Byte → Except DecodeReject (Instr × List Byte)
  | hi :: lo :: rest =>
    match decode (wordOfBytes hi lo) with
    | .ok i => .ok (i, rest)
    | .error g => .error (.reserved g)
  | _ => .error .truncated

/-! ### The encoder -/

/-- A register number as a 4-bit field. -/
def regBits (x : RegIdx) : BitVec 4 := BitVec.ofFin x

/-- Format FA (R93): opcode and `NNN`. -/
def packAddr (op : BitVec 4) (nnn : Addr) : Word := op ++ nnn

/-- Format FI: opcode, `X`, `NN`. -/
def packRegImm (op : BitVec 4) (x : RegIdx) (nn : Byte) : Word := op ++ regBits x ++ nn

/-- Formats FR and FD: opcode, `X`, `Y` and the low nibble. -/
def packRegReg (op : BitVec 4) (x y : RegIdx) (n : Nibble) : Word := op ++ regBits x ++ regBits y ++ n

/-- The instruction word of an instruction: the pattern of its row of R96 with the fields filled in. -/
def encode : Instr → Word
  | .cls => 0x00E0
  | .ret => 0x00EE
  | .jp nnn => packAddr 0x1 nnn
  | .call nnn => packAddr 0x2 nnn
  | .sei x nn => packRegImm 0x3 x nn
  | .snei x nn => packRegImm 0x4 x nn
  | .se x y => packRegReg 0x5 x y 0x0
  | .sne x y => packRegReg 0x9 x y 0x0
  | .ldi x nn => packRegImm 0x6 x nn
  | .addi x nn => packRegImm 0x7 x nn
  | .mov x y => packRegReg 0x8 x y 0x0
  | .or x y => packRegReg 0x8 x y 0x1
  | .and x y => packRegReg 0x8 x y 0x2
  | .xor x y => packRegReg 0x8 x y 0x3
  | .add x y => packRegReg 0x8 x y 0x4
  | .sub x y => packRegReg 0x8 x y 0x5
  | .shr x y => packRegReg 0x8 x y 0x6
  | .subn x y => packRegReg 0x8 x y 0x7
  | .shl x y => packRegReg 0x8 x y 0xE
  | .lda nnn => packAddr 0xA nnn
  | .jpv0 nnn => packAddr 0xB nnn
  | .rnd x nn => packRegImm 0xC x nn
  | .drw x y n => packRegReg 0xD x y n
  | .skp x => packRegImm 0xE x 0x9E
  | .sknp x => packRegImm 0xE x 0xA1
  | .gdt x => packRegImm 0xF x 0x07
  | .wkey x => packRegImm 0xF x 0x0A
  | .sdt x => packRegImm 0xF x 0x15
  | .sst x => packRegImm 0xF x 0x18
  | .adda x => packRegImm 0xF x 0x1E
  | .glyph x => packRegImm 0xF x 0x29
  | .bcd x => packRegImm 0xF x 0x33
  | .stm x => packRegImm 0xF x 0x55
  | .ldm x => packRegImm 0xF x 0x65

/-- The high byte of a word, `w[15:8]`: the byte at the lower address (R66, R90). -/
def highByte (w : Word) : Byte := w.extractLsb' 8 8

/-- The low byte of a word, `w[7:0]`. -/
def lowByte (w : Word) : Byte := w.extractLsb' 0 8

/-- A word as memory holds it (R90), which is also the directive `DW` of R106. -/
def bytesOfWord (w : Word) : List Byte := [highByte w, lowByte w]

/-! ### The opcode table as data (R96) -/

/-- One row of the table: a word is the row's instruction exactly when `w &&& mask = pattern` (R96). -/
structure OpcodeRow where
  mnemonic : String
  mask : Word
  pattern : Word
  form : AsmForm
deriving DecidableEq, Repr

/-- The 34 rows of R96, in the table's order. -/
def opcodeTable : List OpcodeRow :=
  [ ⟨"CLS", 0xFFFF, 0x00E0, .none⟩, ⟨"RET", 0xFFFF, 0x00EE, .none⟩, ⟨"JP", 0xF000, 0x1000, .addr⟩,
    ⟨"CALL", 0xF000, 0x2000, .addr⟩, ⟨"SEI", 0xF000, 0x3000, .regImm⟩, ⟨"SNEI", 0xF000, 0x4000, .regImm⟩,
    ⟨"SE", 0xF00F, 0x5000, .regReg⟩, ⟨"SNE", 0xF00F, 0x9000, .regReg⟩, ⟨"LDI", 0xF000, 0x6000, .regImm⟩,
    ⟨"ADDI", 0xF000, 0x7000, .regImm⟩, ⟨"MOV", 0xF00F, 0x8000, .regReg⟩, ⟨"OR", 0xF00F, 0x8001, .regReg⟩ ]
  ++
  [ ⟨"AND", 0xF00F, 0x8002, .regReg⟩, ⟨"XOR", 0xF00F, 0x8003, .regReg⟩, ⟨"ADD", 0xF00F, 0x8004, .regReg⟩,
    ⟨"SUB", 0xF00F, 0x8005, .regReg⟩, ⟨"SHR", 0xF00F, 0x8006, .reg⟩, ⟨"SUBN", 0xF00F, 0x8007, .regReg⟩,
    ⟨"SHL", 0xF00F, 0x800E, .reg⟩, ⟨"LDA", 0xF000, 0xA000, .addr⟩, ⟨"JPV0", 0xF000, 0xB000, .addr⟩,
    ⟨"RND", 0xF000, 0xC000, .regImm⟩, ⟨"DRW", 0xF000, 0xD000, .regRegHeight⟩, ⟨"SKP", 0xF0FF, 0xE09E, .reg⟩ ]
  ++
  [ ⟨"SKNP", 0xF0FF, 0xE0A1, .reg⟩, ⟨"GDT", 0xF0FF, 0xF007, .reg⟩, ⟨"WKEY", 0xF0FF, 0xF00A, .reg⟩,
    ⟨"SDT", 0xF0FF, 0xF015, .reg⟩, ⟨"SST", 0xF0FF, 0xF018, .reg⟩, ⟨"ADDA", 0xF0FF, 0xF01E, .reg⟩,
    ⟨"GLYPH", 0xF0FF, 0xF029, .reg⟩, ⟨"BCD", 0xF0FF, 0xF033, .reg⟩, ⟨"STM", 0xF0FF, 0xF055, .reg⟩,
    ⟨"LDM", 0xF0FF, 0xF065, .reg⟩ ]

/-- The mnemonic of an instruction (R96, R105). -/
def Instr.mnemonic : Instr → String
  | .cls => "CLS" | .ret => "RET" | .jp _ => "JP" | .call _ => "CALL" | .sei _ _ => "SEI" | .snei _ _ => "SNEI"
  | .se _ _ => "SE" | .sne _ _ => "SNE" | .ldi _ _ => "LDI" | .addi _ _ => "ADDI" | .mov _ _ => "MOV"
  | .or _ _ => "OR" | .and _ _ => "AND" | .xor _ _ => "XOR" | .add _ _ => "ADD" | .sub _ _ => "SUB"
  | .shr _ _ => "SHR" | .subn _ _ => "SUBN" | .shl _ _ => "SHL" | .lda _ => "LDA" | .jpv0 _ => "JPV0"
  | .rnd _ _ => "RND" | .drw _ _ _ => "DRW" | .skp _ => "SKP" | .sknp _ => "SKNP" | .gdt _ => "GDT"
  | .wkey _ => "WKEY" | .sdt _ => "SDT" | .sst _ => "SST" | .adda _ => "ADDA" | .glyph _ => "GLYPH"
  | .bcd _ => "BCD" | .stm _ => "STM" | .ldm _ => "LDM"

/-- Whether a word is an instance of a row (R91, R96). -/
def OpcodeRow.covers (r : OpcodeRow) (w : Word) : Bool := decide (w &&& r.mask = r.pattern)

/-! ### The assembler (R105, R106) -/

/-- The number that a row's operands add to its pattern, by R105's syntax table. -/
def AsmForm.pack : AsmForm → List Nat → Nat
  | .addr, [nnn] => nnn
  | .regImm, [x, nn] => x * 256 + nn
  | .regReg, [x, y] => x * 256 + y * 16
  | .regRegHeight, [x, y, n] => x * 256 + y * 16 + n
  | .reg, [x] => x * 256
  | _, _ => 0

/-- The word of an assembler line of R105: the row's pattern plus its operands; refused when the operands do not have
the row's shape and ranges. -/
def OpcodeRow.assemble (r : OpcodeRow) (ops : List Nat) : Option Word :=
  if r.form.operandsOk ops then some (BitVec.ofNat 16 (r.pattern.toNat + r.form.pack ops)) else none

/-- A line of a program as R105 and R106 write it: an instruction, `DW hhhh` or `DB hh`. -/
inductive AsmItem where
  | instr (i : Instr)
  | dw (w : Word)
  | db (b : Byte)
deriving DecidableEq, Repr

/-- The bytes a program line lays down, the high byte of a word first (R90, R106). -/
def AsmItem.bytes : AsmItem → List Byte
  | .instr i => bytesOfWord (encode i)
  | .dw w => bytesOfWord w
  | .db b => [b]

/-- The program image of a list of lines: the argument of `Load` (R285). -/
def imageOf (p : List AsmItem) : List Byte := p.flatMap AsmItem.bytes

/-! ### The host's view of the decoder -/

/-- The instruction the decoder reads from a word given as a number whose bit 0 is the least significant bit of the
first word; every row of the table has 16 bits, and bits above `nbits` are 0. The word goes through its two bytes in
memory order. -/
def decodeTableWord (nbits w : Nat) : Option Instr :=
  match decodeBytes (bytesOfWord (BitVec.ofNat 16 (w % 2 ^ nbits))) with
  | .ok (i, _) => some i
  | .error _ => none

end Sys2Proof
end

