-- ==== Sys2Proof/Config.lean ====
section
/-! DEFINITION. The fixed numbers of R7 (00_scope.md) and the open parameters of R8: what the spec leaves open
is an opaque constant without a body, so that no proof can use a value of it. -/

namespace Sys2Proof

/-- `MEM_SIZE` of R7: bytes of memory. -/
@[simp] abbrev Config.memSize : Nat := 4096

/-- `PROG_BASE` of R7: where the program image and the reset pc are. -/
@[simp] abbrev Config.progBase : Nat := 0x200

/-- `ROM_MAX` of R7: the longest program image. -/
@[simp] abbrev Config.romMax : Nat := 3584

/-- `FONT_SIZE` of R7: bytes of the font table, which starts at address 0. -/
@[simp] abbrev Config.fontSize : Nat := 80

/-- `GLYPH_SIZE` of R7: bytes of one glyph. -/
@[simp] abbrev Config.glyphSize : Nat := 5

/-- `FLAG_REG` of R7: the register that receives carry, no-borrow, shifted-out bit and collision. -/
@[simp] abbrev Config.flagReg : RegIdx := 15

/-- `FONT[0..79]` of R8 and R283: byte `a` of the font table. FREE VALUE: the spec does not give the bytes
(assumption log 4). -/
opaque Config.font : Nat → Byte

/-- `MEM_INIT(a)` of R8 and R64: the byte at an address to which the latest `Load` wrote neither font nor program.
FREE VALUE, applied to the number of the load (R286: unspecified again after a re-load) and the address
(assumption log 3). -/
opaque Config.memInit : Nat → Nat → Byte

/-- The byte `rand` of R162: the random byte of the n-th draw. FREE VALUE (assumption log 8). -/
opaque Config.rand : Nat → Byte

/-- The free part of `KEY_PICK` of R8 and R225: which key is preferred when several are pressed. FREE VALUE; the
operation `State.keyPick` keeps it to a pressed key (assumption log 9). -/
opaque Config.keyPick : Vector Bool 16 → Fin 16

/-- The customary font table that R283 prints and marks as general knowledge. No definition of the machine uses it:
`State.withCustomaryFont` lists it in memory for a claim that wants to assume it (assumption log 4). -/
def Config.customaryFont : List Byte :=
  [0xF0, 0x90, 0x90, 0x90, 0xF0, 0x20, 0x60, 0x20, 0x20, 0x70, 0xF0, 0x10, 0xF0, 0x80, 0xF0, 0xF0, 0x10, 0xF0, 0x10, 0xF0]
  ++ [0x90, 0x90, 0xF0, 0x10, 0x10, 0xF0, 0x80, 0xF0, 0x10, 0xF0, 0xF0, 0x80, 0xF0, 0x90, 0xF0, 0xF0, 0x10, 0x20, 0x40, 0x40]
  ++ [0xF0, 0x90, 0xF0, 0x90, 0xF0, 0xF0, 0x90, 0xF0, 0x10, 0xF0, 0xF0, 0x90, 0xF0, 0x90, 0x90, 0xE0, 0x90, 0xE0, 0x90, 0xE0]
  ++ [0xF0, 0x80, 0x80, 0x80, 0xF0, 0xE0, 0x90, 0x90, 0x90, 0xE0, 0xF0, 0x80, 0xF0, 0x80, 0xF0, 0xF0, 0x80, 0xF0, 0x80, 0x80]

end Sys2Proof
end

