-- ==== Sys2Proof/Machine/State.lean ====
section
/-! DEFINITION. The state of chip8emu CORE as plain data (10_state.md), the reasons a step stops, the events of R9 and
the state after reset (R34). -/

namespace Sys2Proof.Machine

/-- The six fatal conditions of R240 (60_exceptions.md), with the information R240 lists. Taking one is a next state in
which only `status` changes (`takeFault`, R246, R248). As an OUTCOME of `step` a fault appears only when the machine is
already `Faulted` and the host has no event left to issue but steps, which change nothing and report the same condition
again (R120; assumption log 1). Safe: the model stops where nothing would change any more. -/
inductive Fault where
  /-- Code 1. Reported by a `Load` of a program longer than 3584 bytes (R281); it never enters `status` and is never the
  outcome of a step: it is recorded in `loadReport`. Safe. -/
  | romTooLarge (len : Nat)
  /-- Code 2. Raised by the fetch of any step with `pc + 1 >= 4096` (R241). Safe. -/
  | programCounterOutOfBounds (pc : Word)
  /-- Code 3. Raised by 2NNN at `sp = 16` (R242). Safe. -/
  | stackOverflow
  /-- Code 4. Raised by 00EE at `sp = 0` (R245). Safe. -/
  | stackUnderflow
  /-- Code 5. Raised by DXYN, FX33, FX55 and FX65 when the access range ends at 4096 or above (R243). Safe. -/
  | dataAddressOutOfBounds (I : Word)
  /-- Code 6. Raised by EX9E and EXA1 when `V[X] > 15` (R244). Safe. -/
  | keyIndexOutOfRange (v : Byte)
deriving DecidableEq, Repr

/-- Why a step gives no next state without a fault of the machine. -/
inductive Refusal where
  /-- Raised by an arm of `exec` whose instruction has no meaning yet; no arm does. Safe. -/
  | notModelled (mnemonic : String)
  /-- Raised by a step of a machine that was never loaded when the host has no event left to issue but steps, which
  would do nothing (R120, R291, U18: `refuse`; assumption log 1). Safe. -/
  | unloaded
deriving DecidableEq, Repr

/-- The element `status` of R32. -/
inductive Status where
  | unloaded
  | running
  | faulted (cause : Fault)
deriving DecidableEq, Repr

/-- The five events of R9 that change the state, as the host issues them. `load` carries, beside the program image, the
open parameter `REDRAW_INIT` of R8: `redraw_pending` after this load. -/
inductive Event where
  | load (rom : List Byte) (redrawInit : Bool)
  | step
  | tick
  | setKeys (k : Vector Bool 16)
  | ackRedraw
deriving DecidableEq, Repr

/-- The bytes that something has written since the latest `Load`, by address: strictly rising addresses below 4096
(`Memory.wf`). An unlisted address reads as `none`, "not written", so no entry can equal it; what the machine then reads
is `State.unlistedByte`. -/
abbrev Memory := List Host.Cell

/-- The framebuffer of R29 and R200: 32 rows of 64 cells, row 0 at the top, `true` for on. -/
abbrev Framebuffer := Vector (Vector Bool 64) 32

/-- The state of the machine. The fields down to `status` are the spec's, under its names; the last four are the
model's own: the host's events to come, what the latest `Load` reported, and the two counters of the free values. -/
structure State where
  /-- `V[0]` to `V[15]` (R20); `V[15]` is also the flag (R21). -/
  V : Vector Byte 16
  /-- The program counter (R22). -/
  pc : Word
  /-- The index register (R24). -/
  I : Word
  /-- The call stack (R25). -/
  stack : Vector Word 16
  /-- The index of the next free call-stack entry, 0 to 16 (R26). -/
  sp : Fin 17
  /-- The delay timer (R27). -/
  DT : Byte
  /-- The sound timer (R27). -/
  ST : Byte
  /-- Memory (R28): the bytes written since the latest `Load`. -/
  mem : Memory
  /-- The framebuffer (R29). -/
  fb : Framebuffer
  /-- `redraw_pending` (R30). -/
  redrawPending : Bool
  /-- The sixteen key latches (R31). -/
  keys : Vector Bool 16
  /-- `Unloaded`, `Running` or `Faulted(cause)` (R32). -/
  status : Status
  /-- The events the host is still to issue, oldest first (R9, R261; assumption log 2). -/
  agenda : List Event
  /-- What the latest `Load` reported to the host (R281; assumption log 7). -/
  loadReport : Option Fault
  /-- How many random bytes have been drawn: the argument of `Config.rand` (R162; assumption log 8). -/
  draws : Nat
  /-- How many loads have succeeded: an argument of `Config.memInit` (R64, R286; assumption log 3). -/
  loads : Nat
deriving DecidableEq, Repr

/-- A framebuffer with every cell off (R201, R284). -/
def Framebuffer.clear : Framebuffer := Vector.replicate 32 (Vector.replicate 64 false)

/-- The machine right after reset, that is after a successful `Load` (R34), here of the empty image: no program is in
memory. `redrawPending` and `keys` have no reset value in the spec and hold a value the log names (5 and 6). -/
def State.reset : State where
  V := Vector.replicate 16 0
  pc := 0x200
  I := 0
  stack := Vector.replicate 16 0
  sp := 0
  DT := 0
  ST := 0
  mem := []
  fb := Framebuffer.clear
  redrawPending := false
  keys := Vector.replicate 16 false
  status := .running
  agenda := []
  loadReport := none
  draws := 0
  loads := 1

/-- The machine before its first `Load` (R35): `Unloaded`; no other element has a value to rely on, and the ones written
here are replaced by `Load`, but for `keys` (R34). -/
def State.powerOn : State := { State.reset with status := .unloaded, loads := 0 }

end Sys2Proof.Machine
end

