-- ==== Sys2Proof/Machine/Ops.lean ====
section
/-! DEFINITION. The named operations over the state: registers, memory, the call stack, the framebuffer, the advance of
`pc`, taking a fault (R246, R248) and the `Load` that leaves it (R249, R280 to R286). -/

namespace Sys2Proof.Machine

/-- What a meaning, and a step, answers. -/
abbrev Result := Host.Outcome State Fault Refusal

/-! ### Registers and latches -/

/-- `V[x]` (R14, R20). -/
def State.reg (s : State) (x : RegIdx) : Byte := s.V[x]

/-- `V[x] <- v` (R14, R20). -/
def State.setReg (s : State) (x : RegIdx) (v : Byte) : State := { s with V := s.V.set x v }

/-- `pc <- v` (R14). -/
def State.setPc (s : State) (v : Word) : State := { s with pc := v }

/-- `I <- v` (R14). -/
def State.setI (s : State) (v : Word) : State := { s with I := v }

/-- `DT <- v` (R14). -/
def State.setDT (s : State) (v : Byte) : State := { s with DT := v }

/-- `ST <- v` (R14). -/
def State.setST (s : State) (v : Byte) : State := { s with ST := v }

/-- `redraw_pending <- b` (R30). -/
def State.setRedraw (s : State) (b : Bool) : State := { s with redrawPending := b }

/-- `keys[i] <- k[i]` for all sixteen latches at once (R264). -/
def State.setKeys (s : State) (k : Vector Bool 16) : State := { s with keys := k }

/-- `status <- v` (R32). -/
def State.setStatus (s : State) (v : Status) : State := { s with status := v }

/-- The host's events to come become `es` (assumption log 2). -/
def State.setAgenda (s : State) (es : List Event) : State := { s with agenda := es }

/-- Draw one random byte: the byte, and the state that has drawn it (R162; assumption log 8). -/
def State.draw (s : State) : Byte × State := (Config.rand s.draws, { s with draws := s.draws + 1 })

/-- The advance `pc <- pc + 2` that ends an instruction (R16, R123). -/
def State.advance (s : State) : State := s.setPc (s.pc + 2)

/-- The end of a skip instruction: `pc + 4` when the condition holds, else `pc + 2` (R123). -/
def State.skipIf (s : State) (c : Bool) : State := s.setPc (if c then s.pc + 4 else s.pc + 2)

/-! ### Memory (20_memory.md) -/

/-- The byte listed at an address; `none` when nothing has written it since the latest `Load`. -/
def Memory.read? : Memory → Nat → Option Byte
  | [], _ => none
  | (a, v) :: m, b => if a = b then some v else Memory.read? m b

/-- List byte `v` at address `a`, keeping the addresses strictly rising. -/
def Memory.write : Memory → Nat → Byte → Memory
  | [], a, v => [(a, v)]
  | (b, u) :: m, a, v =>
    if a < b then (a, v) :: (b, u) :: m
    else if a = b then (a, v) :: m
    else (b, u) :: Memory.write m a v

/-- List the bytes of `bs` at `a`, `a + 1`, ... in ascending order. -/
def Memory.writeBytes : Memory → Nat → List Byte → Memory
  | m, _, [] => m
  | m, a, b :: bs => Memory.writeBytes (Memory.write m a b) (a + 1) bs

/-- The addresses of `m` rise strictly from `lo` and stay below the end of memory. -/
def Memory.wfFrom : Nat → Memory → Bool
  | _, [] => true
  | lo, (a, _) :: m => decide (lo ≤ a) && decide (a < Config.memSize) && Memory.wfFrom (a + 1) m

/-- The canonical form of memory: addresses strictly rising and below 4096 (R28). An entry is a written byte and an
unlisted address reads as `none`, so no entry equals what an unlisted address reads as. -/
def Memory.wf (m : Memory) : Bool := Memory.wfFrom 0 m

/-- What the machine reads at an address that nothing has written since the latest `Load`: a byte of the font table that
`Load` wrote (R62, R283), else `MEM_INIT(a)` of that load (R64, R286). -/
def State.unlistedByte (s : State) (a : Nat) : Byte :=
  if a < Config.fontSize then Config.font a else Config.memInit s.loads a

/-- `MemRead(a, 1)` (R14, R68). Addresses of 4096 and above are refused by the checks before any read (R66, R70). -/
def State.memByte (s : State) (a : Nat) : Byte := (s.mem.read? a).getD (s.unlistedByte a)

/-- `MemWrite(a, 1, v)` (R14, R68). -/
def State.setMemByte (s : State) (a : Nat) (v : Byte) : State := { s with mem := s.mem.write a v }

/-! ### The call stack (R25, R26) -/

/-- `stack[sp] <- v ; sp <- sp + 1` (R126), for an `sp` below 16. -/
def State.push (s : State) (v : Word) (h : s.sp.val < 16) : State :=
  { s with stack := s.stack.set s.sp.val v, sp := ⟨s.sp.val + 1, by omega⟩ }

/-- `sp <- sp - 1` and the entry it then points at (R127), for an `sp` above 0. The entry keeps its value (R25). -/
def State.pop (s : State) (h : 0 < s.sp.val) : Word × State :=
  (s.stack[s.sp.val - 1]'(by omega), { s with sp := ⟨s.sp.val - 1, by omega⟩ })

/-! ### The framebuffer (43_display.md) -/

/-- `fb[r][c]` (R14, R200). -/
def State.cell (s : State) (r : Fin 32) (c : Fin 64) : Bool := s.fb[r][c]

/-- `fb[r][c] <- b` (R14, R200). -/
def State.setCell (s : State) (r : Fin 32) (c : Fin 64) (b : Bool) : State :=
  { s with fb := s.fb.set r (s.fb[r].set c b) }

/-- `fb[r][c] <- 0` for every cell (R201). -/
def State.clearCells (s : State) : State := { s with fb := Framebuffer.clear }

/-! ### Taking a fault, and the way out of it (60_exceptions.md) -/

/-- Fault entry: the step ends, `status <- Faulted(cause)`, and nothing else is written (R246, R248). -/
def takeFault (c : Fault) (s : State) : Result := .next (s.setStatus (.faulted c))

/-- A `Load` that passes the size check (R282): font, registers, stack, timers, framebuffer and `pc` get their reset
values, the image is copied to 0x200 upward, `status` becomes `Running`. The font and the unspecified bytes are what
unlisted addresses read as, so memory lists the image alone. `keys` is not written (R34). -/
def State.loadImage (s : State) (rom : List Byte) (redrawInit : Bool) : State :=
  { s with
    V := Vector.replicate 16 0
    pc := BitVec.ofNat 16 Config.progBase
    I := 0
    stack := Vector.replicate 16 0
    sp := 0
    DT := 0
    ST := 0
    mem := Memory.writeBytes [] Config.progBase rom
    fb := Framebuffer.clear
    redrawPending := redrawInit
    status := .running
    loadReport := none
    loads := s.loads + 1 }

/-- The event `Load(rom)`, the machine's only reset and the only way out of `Faulted` (R249, R280): an image of more
than 3584 bytes is rejected and changes no state element, `status` included (R281); the condition is reported to the
host. -/
def State.load (s : State) (rom : List Byte) (redrawInit : Bool) : State :=
  if Config.romMax < rom.length then { s with loadReport := some (.romTooLarge rom.length) }
  else s.loadImage rom redrawInit

/-- The fault code of R240. -/
def Fault.code : Fault → Nat
  | .romTooLarge _ => 1
  | .programCounterOutOfBounds _ => 2
  | .stackOverflow => 3
  | .stackUnderflow => 4
  | .dataAddressOutOfBounds _ => 5
  | .keyIndexOutOfRange _ => 6

/-- The code a status holds; 0 means no fault (R240). -/
def Status.code : Status → Nat
  | .unloaded => 0
  | .running => 0
  | .faulted c => c.code

end Sys2Proof.Machine
end

