-- ==== Sys2Proof/Machine/Flags.lean ====
section
/-! DEFINITION. The flag computations of R21 and R150: what the arithmetic and shift instructions write to `V[15]`. -/

namespace Sys2Proof.Machine

/-- A flag as the byte a register holds: 1 or 0 (R21). -/
def flagByte (b : Bool) : Byte := if b then 1 else 0

/-- Carry: the true sum exceeds 255 (R157). -/
def carryFlag (a b : Byte) : Bool := decide (a.toNat + b.toNat > 255)

/-- No-borrow: the minuend is greater than or equal to the subtrahend (R158, R160). -/
def noBorrowFlag (a b : Byte) : Bool := decide (a.toNat ≥ b.toNat)

/-- The bit a right shift moves out, bit 0 (R159). -/
def shiftedOutRight (a : Byte) : Bool := a.getLsbD 0

/-- The bit a left shift moves out, bit 7 (R161). -/
def shiftedOutLeft (a : Byte) : Bool := a.getLsbD 7

/-- `V[15] <- 1 if b else 0` (R21). -/
def State.setFlag (s : State) (b : Bool) : State := s.setReg Config.flagReg (flagByte b)

end Sys2Proof.Machine
end

