-- ==== Sys2Proof/Machine/Alu.lean ====
section
/-! DEFINITION. Register load, arithmetic, logic, shift and random (41_alu.md). Each meaning is the sequence of
assignments its rule writes, each reading the state the one before it left (R15), and ends with the advance (R123). -/

namespace Sys2Proof.Machine

/-- A register instruction without a flag: `V[x] <- v`, then the advance. -/
def writeAndAdvance (x : RegIdx) (v : Byte) (s : State) : Result := .next (s.setReg x v).advance

/-- A register instruction whose flag is written first: `V[15] <- f`, then `V[x] <- v` with `v` computed from the
registers as the flag left them (R15), then the advance. -/
def flagThenWrite (f : Bool) (x : RegIdx) (v : State → Byte) (s : State) : Result :=
  writeAndAdvance x (v (s.setFlag f)) (s.setFlag f)

/-- 6XNN (R151). -/
def execLdi (x : RegIdx) (nn : Byte) (s : State) : Result := writeAndAdvance x nn s

/-- 7XNN (R152): wraps modulo 256, no flag. -/
def execAddi (x : RegIdx) (nn : Byte) (s : State) : Result := writeAndAdvance x (s.reg x + nn) s

/-- 8XY0 (R153). -/
def execMov (x y : RegIdx) (s : State) : Result := writeAndAdvance x (s.reg y) s

/-- 8XY1 (R154): `V[15]` is left alone. -/
def execOr (x y : RegIdx) (s : State) : Result := writeAndAdvance x (s.reg x ||| s.reg y) s

/-- 8XY2 (R155): `V[15]` is left alone. -/
def execAnd (x y : RegIdx) (s : State) : Result := writeAndAdvance x (s.reg x &&& s.reg y) s

/-- 8XY3 (R156): `V[15]` is left alone. -/
def execXor (x y : RegIdx) (s : State) : Result := writeAndAdvance x (s.reg x ^^^ s.reg y) s

/-- 8XY4 (R157): the sum is formed before anything is written. -/
def execAdd (x y : RegIdx) (s : State) : Result :=
  let sum := s.reg x + s.reg y
  flagThenWrite (carryFlag (s.reg x) (s.reg y)) x (fun _ => sum) s

/-- 8XY5 (R158): the difference reads the registers as the flag left them. -/
def execSub (x y : RegIdx) (s : State) : Result :=
  flagThenWrite (noBorrowFlag (s.reg x) (s.reg y)) x (fun t => t.reg x - t.reg y) s

/-- 8XY6 (R159): logical shift in place; `Y` is ignored (R95). -/
def execShr (x _y : RegIdx) (s : State) : Result :=
  flagThenWrite (shiftedOutRight (s.reg x)) x (fun t => t.reg x >>> 1) s

/-- 8XY7 (R160): the difference reads the registers as the flag left them. -/
def execSubn (x y : RegIdx) (s : State) : Result :=
  flagThenWrite (noBorrowFlag (s.reg y) (s.reg x)) x (fun t => t.reg y - t.reg x) s

/-- 8XYE (R161): shift in place; `Y` is ignored (R95). -/
def execShl (x _y : RegIdx) (s : State) : Result :=
  flagThenWrite (shiftedOutLeft (s.reg x)) x (fun t => t.reg x <<< 1) s

/-- The effect of CXNN for a given byte `rand` (R162). -/
def randomWith (rand : Byte) (x : RegIdx) (nn : Byte) (s : State) : Result := writeAndAdvance x (rand &&& nn) s

/-- CXNN (R162): `rand` is the byte drawn at this step, a free value. -/
def execRnd (x : RegIdx) (nn : Byte) (s : State) : Result := randomWith s.draw.1 x nn s.draw.2

end Sys2Proof.Machine
end

