-- ==== Sys2Proof/Machine/Operands.lean ====
section
/-! DEFINITION. The operand forms: the zero-extended address and byte (R94), the byte range of an access through `I`
(R69, R70), the key that a register names (R223) and the key that FX0A reports (R225). -/

namespace Sys2Proof.Machine

/-- `NNN` zero-extended to 16 bits (R94). -/
def addrWord (nnn : Addr) : Word := nnn.setWidth 16

/-- A byte zero-extended to 16 bits: every widening is a zero extension (R14). -/
def byteWord (b : Byte) : Word := b.setWidth 16

/-- The effective address of the `i`-th byte of an access, `I + i` as an unbounded integer (R69). -/
def State.dataAddr (s : State) (i : Nat) : Nat := s.I.toNat + i

/-- The access `I .. I + count - 1` passes the end of memory: `count >= 1` and `I + count - 1 >= 4096` (R70). -/
def State.dataOutOfBounds (s : State) (count : Nat) : Bool :=
  decide (1 ≤ count) && decide (s.I.toNat + count - 1 ≥ Config.memSize)

/-- Run an instruction that accesses `count` bytes through `I`: the whole range is checked before anything is read or
written (R70, R243). -/
def withDataRange (count : Nat) (s : State) (run : State → State) : Result :=
  if s.dataOutOfBounds count then takeFault (.dataAddressOutOfBounds s.I) s else .next (run s)

/-- The register that the running index of FX55 and FX65 names; the index is at most 15 (R186, R187). -/
def regOfNat (i : Nat) : RegIdx := ⟨i % 16, Nat.mod_lt _ (by decide)⟩

/-- `keys[k]` (R14, R31). -/
def State.key (s : State) (k : Fin 16) : Bool := s.keys[k]

/-- Run a key skip on the key that `V[x]` names, by its whole value: above 15 it faults before `pc` changes
(R223, R224, R244). -/
def withKey (x : RegIdx) (s : State) (run : Fin 16 → State) : Result :=
  if h : (s.reg x).toNat < 16 then .next (run ⟨(s.reg x).toNat, h⟩)
  else takeFault (.keyIndexOutOfRange (s.reg x)) s

/-- The pressed keys, in ascending order. -/
def pressedKeys (k : Vector Bool 16) : List (Fin 16) := (List.finRange 16).filter (fun i => k[i])

/-- `KEY_PICK` (R225): nothing when no key is pressed, the pressed key when there is one, and when there are several
the key that the free value `Config.keyPick` names if it is pressed, else the first of them. Every function that R225
allows is one of these, for some value of `Config.keyPick` (assumption log 9). -/
def keyPick (k : Vector Bool 16) : Option (Fin 16) :=
  match pressedKeys k with
  | [] => none
  | [i] => some i
  | i :: _ => some (if k[Config.keyPick k] then Config.keyPick k else i)

end Sys2Proof.Machine
end

