-- ==== Sys2Proof/Machine/Display.lean ====
section
/-! DEFINITION. Clear and the sprite blit (43_display.md). The blit is R203's pseudocode in its literal order (R15): `row` is
evaluated once a row, `col` once a pixel, each from the register as it then stands, so that register 15 as a coordinate
reads 0 until the first collision and 1 after it. -/

namespace Sys2Proof.Machine

/-- A row number modulo 32 (R200). -/
def rowOfNat (n : Nat) : Fin 32 := ⟨n % 32, Nat.mod_lt _ (by decide)⟩

/-- A column number modulo 64 (R200). -/
def colOfNat (n : Nat) : Fin 64 := ⟨n % 64, Nat.mod_lt _ (by decide)⟩

/-- `row <- (V[Y] + r) mod 32` (R203). -/
def State.spriteRow (s : State) (y : RegIdx) (r : Nat) : Fin 32 := rowOfNat ((s.reg y).toNat + r)

/-- `col <- (V[X] + c) mod 64` (R203). -/
def State.spriteCol (s : State) (x : RegIdx) (c : Nat) : Fin 64 := colOfNat ((s.reg x).toNat + c)

/-- `fb[row][col]` XOR a sprite bit: a bit of 1 flips the cell, a bit of 0 leaves it alone (R203). -/
def State.xorCell (s : State) (row : Fin 32) (col : Fin 64) (bit : Bool) : State :=
  s.setCell row col (s.cell row col ^^ bit)

/-- `V[15] <- 1` at a collision, nothing otherwise (R203). -/
def State.markCollision (s : State) (hit : Bool) : State :=
  { s with V := if hit then s.V.set Config.flagReg (flagByte true) else s.V }

/-- One sprite bit on one cell: it collides when both are 1 (R203). -/
def State.plotBit (s : State) (row : Fin 32) (col : Fin 64) (bit : Bool) : State :=
  (s.markCollision (bit && s.cell row col)).xorCell row col bit

/-- One pixel of a sprite row: bit `7 - c` of `b` at column offset `c` (R202, R203). -/
def State.drawPixel (s : State) (x : RegIdx) (row : Fin 32) (b : Byte) (c : Nat) : State :=
  s.plotBit row (s.spriteCol x c) (b.getLsbD (7 - c))

/-- The first `count` pixels of a sprite row, left to right. -/
def State.drawPixels (s : State) (x : RegIdx) (row : Fin 32) (b : Byte) : Nat → State
  | 0 => s
  | c + 1 => (s.drawPixels x row b c).drawPixel x row b c

/-- Row `r` of the sprite: the byte at `I + r`, at the row the register `y` then gives. -/
def State.drawRow (s : State) (x y : RegIdx) (r : Nat) : State :=
  s.drawPixels x (s.spriteRow y r) (s.memByte (s.dataAddr r)) 8

/-- The first `count` rows of the sprite, top row first. -/
def State.drawRows (s : State) (x y : RegIdx) : Nat → State
  | 0 => s
  | r + 1 => (s.drawRows x y r).drawRow x y r

/-- 00E0 (R201): the flag is set even if every cell was off. -/
def execCls (s : State) : Result := .next (s.clearCells.setRedraw true).advance

/-- DXYN (R203). With `n = 0` there is no access and no fault. -/
def execDrw (x y : RegIdx) (n : Nibble) (s : State) : Result :=
  withDataRange n.toNat s fun t => (((t.setFlag false).drawRows x y n.toNat).setRedraw true).advance

end Sys2Proof.Machine
end

