-- ==== Sys2Proof/Machine/Flow.lean ====
section
/-! DEFINITION. Control transfer and the reserved words (40_flow.md). A jump, call or return writes `pc` and adds
nothing (R123); no transfer faults on its target (R135). -/

namespace Sys2Proof.Machine

/-- 00EE (R127): underflow is tested before anything is written. -/
def execRet (s : State) : Result :=
  if h : 0 < s.sp.val then .next ((s.pop h).2.setPc (s.pop h).1) else takeFault .stackUnderflow s

/-- 1NNN (R125). -/
def execJp (nnn : Addr) (s : State) : Result := .next (s.setPc (addrWord nnn))

/-- 2NNN (R126): pushes the address of the instruction after the call, `pc + 2`; overflow is tested before anything is
written. -/
def execCall (nnn : Addr) (s : State) : Result :=
  if h : s.sp.val < 16 then .next ((s.push (s.pc + 2) h).setPc (addrWord nnn)) else takeFault .stackOverflow s

/-- BNNN (R128): the offset register is always `V[0]`; the sum is not reduced modulo 4096. -/
def execJpv0 (nnn : Addr) (s : State) : Result := .next (s.setPc (addrWord nnn + byteWord (s.reg 0)))

/-- 3XNN (R129). -/
def execSei (x : RegIdx) (nn : Byte) (s : State) : Result := .next (s.skipIf (decide (s.reg x = nn)))

/-- 4XNN (R130). -/
def execSnei (x : RegIdx) (nn : Byte) (s : State) : Result := .next (s.skipIf (decide (s.reg x ≠ nn)))

/-- 5XY0 (R131). -/
def execSe (x y : RegIdx) (s : State) : Result := .next (s.skipIf (decide (s.reg x = s.reg y)))

/-- 9XY0 (R132). -/
def execSne (x y : RegIdx) (s : State) : Result := .next (s.skipIf (decide (s.reg x ≠ s.reg y)))

/-- A reserved word of any group (R133): a no-operation that advances. -/
def execReserved (_g : ReservedWord) (s : State) : Result := .next s.advance

end Sys2Proof.Machine
end

