-- ==== Sys2Proof/Machine/Index.lean ====
section
/-! DEFINITION. Index register and memory instructions (42_index_memory.md): one byte at a time from `I` upward, `I`
unchanged by an access (R180), the whole range checked first (R70). -/

namespace Sys2Proof.Machine

/-- `MemWrite(I + i, 1, V[i])` for `i = 0, ..., count - 1`, in that order (R186). -/
def State.storeRegs (s : State) : Nat → State
  | 0 => s
  | i + 1 => (s.storeRegs i).setMemByte ((s.storeRegs i).dataAddr i) ((s.storeRegs i).reg (regOfNat i))

/-- `V[i] <- MemRead(I + i, 1)` for `i = 0, ..., count - 1`, in that order (R187). -/
def State.loadRegs (s : State) : Nat → State
  | 0 => s
  | i + 1 => (s.loadRegs i).setReg (regOfNat i) ((s.loadRegs i).memByte ((s.loadRegs i).dataAddr i))

/-- The hundreds digit of a byte (R184). -/
def hundredsDigit (b : Byte) : Byte := BitVec.ofNat 8 (b.toNat / 100)

/-- The tens digit of a byte (R184). -/
def tensDigit (b : Byte) : Byte := BitVec.ofNat 8 (b.toNat / 10 % 10)

/-- The ones digit of a byte (R184). -/
def onesDigit (b : Byte) : Byte := BitVec.ofNat 8 (b.toNat % 10)

/-- The three stores of FX33, hundreds first (R184). -/
def State.storeDigits (s : State) (b : Byte) : State :=
  ((s.setMemByte (s.dataAddr 0) (hundredsDigit b)).setMemByte (s.dataAddr 1) (tensDigit b)).setMemByte
    (s.dataAddr 2) (onesDigit b)

/-- ANNN (R181). -/
def execLda (nnn : Addr) (s : State) : Result := .next (s.setI (addrWord nnn)).advance

/-- FX1E (R182): wraps modulo 65536, no flag. -/
def execAdda (x : RegIdx) (s : State) : Result := .next (s.setI (s.I + byteWord (s.reg x))).advance

/-- FX29 (R183): the whole register times 5. -/
def execGlyph (x : RegIdx) (s : State) : Result :=
  .next (s.setI (BitVec.ofNat 16 ((s.reg x).toNat * Config.glyphSize))).advance

/-- FX33 (R184). -/
def execBcd (x : RegIdx) (s : State) : Result := withDataRange 3 s fun t => (t.storeDigits (t.reg x)).advance

/-- FX55 (R186): registers 0 to `x`. -/
def execStm (x : RegIdx) (s : State) : Result := withDataRange (x.val + 1) s fun t => (t.storeRegs (x.val + 1)).advance

/-- FX65 (R187): registers 0 to `x`. -/
def execLdm (x : RegIdx) (s : State) : Result := withDataRange (x.val + 1) s fun t => (t.loadRegs (x.val + 1)).advance

end Sys2Proof.Machine
end

