-- ==== Sys2Proof/Machine/TimersKeys.lean ====
section
/-! DEFINITION. Timer and key instructions (44_timers_keys.md). -/

namespace Sys2Proof.Machine

/-- FX07 (R220). -/
def execGdt (x : RegIdx) (s : State) : Result := .next (s.setReg x s.DT).advance

/-- FX15 (R221). -/
def execSdt (x : RegIdx) (s : State) : Result := .next (s.setDT (s.reg x)).advance

/-- FX18 (R222). -/
def execSst (x : RegIdx) (s : State) : Result := .next (s.setST (s.reg x)).advance

/-- EX9E (R223). -/
def execSkp (x : RegIdx) (s : State) : Result := withKey x s fun k => s.skipIf (s.key k)

/-- EXA1 (R224). -/
def execSknp (x : RegIdx) (s : State) : Result := withKey x s fun k => s.skipIf (!s.key k)

/-- FX0A (R225): a level check; with no key pressed the step changes nothing, `pc` included. -/
def execWkey (x : RegIdx) (s : State) : Result :=
  match keyPick s.keys with
  | none => .next s
  | some k => .next (s.setReg x (BitVec.ofNat 8 k.val)).advance

end Sys2Proof.Machine
end

