-- ==== Sys2Proof/Machine/Events.lean ====
section
/-! DEFINITION. The host's events other than `Step` (R9), what the host reads (R10, R262, R263), and an image of a
program with a font (R283). -/

namespace Sys2Proof.Machine

/-- A timer decremented, with a floor of zero (R260). -/
def timerDown (t : Byte) : Byte := if t = 0 then 0 else t - 1

/-- `Tick` (R260): both timers, independently; nothing else, and whatever `status` is (R248). -/
def State.tick (s : State) : State := (s.setDT (timerDown s.DT)).setST (timerDown s.ST)

/-- `AckRedraw` (R263). -/
def State.ackRedraw (s : State) : State := s.setRedraw false

/-- The sound level (R262): a pure function of the state. -/
def State.soundOn (s : State) : Bool := decide (s.ST ≠ 0)

/-- The 2048 cells as the host reads them: cell (r, c) is element `r * 64 + c` (R29, R200). -/
def State.cellList (s : State) : List Bool := s.fb.toList.flatMap Vector.toList

/-- The whole of `V` as the host reads it (R10). -/
def State.regList (s : State) : List Byte := s.V.toList

/-- The machine with the customary font table of R283 listed at 0x000 to 0x04F. The spec marks the table as general
knowledge and leaves `FONT` open: a claim about drawn glyphs that starts here ASSUMES the table (assumption log 4). -/
def State.withCustomaryFont (s : State) : State :=
  { s with mem := Memory.writeBytes s.mem 0 Config.customaryFont }

end Sys2Proof.Machine
end

