-- ==== Sys2Proof/Machine/Cycle.lean ====
section
/-! DEFINITION. The step cycle of R120 and R121 (40_flow.md): fetch, decode, dispatch, execute; and one event of R9. -/

namespace Sys2Proof.Machine

/-- A byte of the instruction at `pc` lies at 4096 or above: `pc + 1 >= 4096`, not wrapped (R66, R241). -/
def State.fetchOutOfBounds (s : State) : Bool := decide (s.pc.toNat + 1 ≥ Config.memSize)

/-- `MemRead(pc, 2)`: the two bytes at `pc`, big-endian (R66). -/
def State.fetchWord (s : State) : Word := wordOfBytes (s.memByte s.pc.toNat) (s.memByte (s.pc.toNat + 1))

/-- Decode, dispatch and execute a fetched word (R121): an instruction, or the no-operation of a reserved word. -/
def runWord (w : Word) (s : State) : Result :=
  match decode w with
  | .ok i => exec i s
  | .error g => execReserved g s

/-- A `Step` in `Running`: fetch, or the fault of R241, then the word (R121). -/
def runStep (s : State) : Result :=
  if s.fetchOutOfBounds then takeFault (.programCounterOutOfBounds s.pc) s else runWord s.fetchWord s

/-- The event `Step` as the host issues it (R120): it acts only in `Running`; in `Faulted(c)` and before the first
`Load` it changes nothing. -/
def stepEvent (s : State) : Result :=
  match s.status with
  | .running => runStep s
  | .faulted _ => .next s
  | .unloaded => .next s

/-- What follows when the host has nothing more to issue but steps: an instruction in `Running`; in the other statuses
nothing can happen any more, and the outcome reports the condition (R120, R248, U18; assumption log 1). -/
def onlySteps (s : State) : Result :=
  match s.status with
  | .running => runStep s
  | .faulted c => .fault c
  | .unloaded => .refused .unloaded

/-- One event of R9. -/
def perform (e : Event) (s : State) : Result :=
  match e with
  | .load rom redrawInit => .next (s.load rom redrawInit)
  | .step => stepEvent s
  | .tick => .next s.tick
  | .setKeys k => .next (s.setKeys k)
  | .ackRedraw => .next s.ackRedraw

/-- The next event: the first of the agenda, which is then no longer on it; with an empty agenda, steps only
(assumption log 2). -/
def nextEvent (s : State) : Result :=
  match s.agenda with
  | [] => onlySteps s
  | e :: es => perform e (s.setAgenda es)

/-- The address at which a word is placed so that the next fetch reads it: `pc` where its two bytes lie in memory, else
the reset value of `pc`. -/
def State.fetchAddr (s : State) : Nat := if s.fetchOutOfBounds then Config.progBase else s.pc.toNat

/-- `s` with the word `w` where the next `Step` fetches it, in memory order, and that `Step` next: `Running`, nothing on
the agenda, `pc` at the word (assumption log 10). -/
def State.placeWord (s : State) (w : Word) : State :=
  { s with
    mem := Memory.writeBytes s.mem s.fetchAddr (bytesOfWord w)
    pc := BitVec.ofNat 16 s.fetchAddr
    status := .running
    agenda := [] }

end Sys2Proof.Machine
end

