-- ==== Sys2Proof/Machine/Step.lean ====
section
/-! DEFINITION. One step of the model: the next event of R9. With an empty agenda it is the event `Step`, one
instruction (R121, R122). -/

namespace Sys2Proof.Machine

/-- The next event: a next state, a fault or a refusal. -/
def step (s : State) : Host.Outcome State Fault Refusal := nextEvent s

/-- `s` with the word of a table row where `step` fetches its next instruction; bits above `nbits` are 0. -/
def State.withFetchWord (s : State) (nbits w : Nat) : State := s.placeWord (BitVec.ofNat 16 (w % 2 ^ nbits))

end Sys2Proof.Machine
end

