-- ==== Sys2Proof/Safety.lean ====
section
/-! DEFINITION. The terms that claims use: a safe run, the invariant of the machine, and the parts of the state that an
event leaves unchanged. -/

namespace Sys2Proof.Machine

/-- The machine is in `Running` (R32). -/
def State.isRunning (s : State) : Bool := decide (s.status = .running)

/-- A safe run of `k` events from `s`: every one of them gives a next state and the machine is `Running` throughout. A
faulted run is never a finished run (R248). -/
def SafeRun : Nat → State → Prop
  | 0, s => s.status = .running
  | k + 1, s => s.status = .running ∧ ∃ t, step s = .next t ∧ SafeRun k t

/-- The bound of R23 on `pc`: the largest value it takes is 0x10FE. -/
def State.pcInRange (s : State) : Prop := s.pc.toNat ≤ 0x10FE

/-- Every call-stack entry is 0 or a pushed `pc + 2`, so at most 0x1000 (R23). -/
def State.stackInRange (s : State) : Prop := ∀ k : Fin 16, (s.stack[k]).toNat ≤ 0x1000

/-- The invariant of the machine: memory in its canonical form, `pc` and the stack entries in the ranges of R23. -/
def State.Inv (s : State) : Prop := s.mem.wf = true ∧ s.pcInRange ∧ s.stackInRange

/-! ### What an instruction leaves unchanged -/

/-- Every general register outside `rs` holds in `t` what it held in `s`. -/
def KeepsRegs (rs : List RegIdx) (s t : State) : Prop := ∀ z : RegIdx, z ∉ rs → t.reg z = s.reg z

/-- Every byte of memory reads in `t` as it read in `s`. -/
def KeepsMemory (s t : State) : Prop := ∀ a : Nat, t.memByte a = s.memByte a

/-- Every byte of memory outside the `count` bytes at `base` reads in `t` as it read in `s`. -/
def KeepsMemoryOutside (base count : Nat) (s t : State) : Prop :=
  ∀ a : Nat, ¬(base ≤ a ∧ a < base + count) → t.memByte a = s.memByte a

/-- Every framebuffer cell and `redraw_pending` are as they were. -/
def KeepsDisplay (s t : State) : Prop :=
  (∀ (r : Fin 32) (c : Fin 64), t.cell r c = s.cell r c) ∧ t.redrawPending = s.redrawPending

/-- `sp` and every call-stack entry are as they were. -/
def KeepsStack (s t : State) : Prop := t.sp = s.sp ∧ ∀ k : Fin 16, t.stack[k] = s.stack[k]

/-- Both timers are as they were. -/
def KeepsTimers (s t : State) : Prop := t.DT = s.DT ∧ t.ST = s.ST

/-- What only the host's events and faults change: the key latches, `status`, the agenda, what the latest `Load`
reported and the number of loads. -/
def KeepsHostSide (s t : State) : Prop :=
  (∀ k : Fin 16, t.key k = s.key k) ∧ t.status = s.status ∧ t.agenda = s.agenda ∧ t.loadReport = s.loadReport ∧
    t.loads = s.loads

/-- Everything but the registers of `rs`, `pc` and the count of random draws is as it was: the frame of an instruction
that writes registers only. -/
def WritesOnlyRegs (rs : List RegIdx) (s t : State) : Prop :=
  KeepsRegs rs s t ∧ t.I = s.I ∧ KeepsMemory s t ∧ KeepsDisplay s t ∧ KeepsStack s t ∧ KeepsTimers s t ∧
    KeepsHostSide s t

/-- The same, with no random byte drawn: every instruction but CXNN. -/
def WritesOnlyRegsNoDraw (rs : List RegIdx) (s t : State) : Prop := WritesOnlyRegs rs s t ∧ t.draws = s.draws

/-- Everything but `I` and `pc` is as it was: the frame of an instruction that sets the index register. -/
def WritesOnlyIndex (s t : State) : Prop :=
  KeepsRegs [] s t ∧ KeepsMemory s t ∧ KeepsDisplay s t ∧ KeepsStack s t ∧ KeepsTimers s t ∧ KeepsHostSide s t ∧
    t.draws = s.draws

/-- Everything but the `count` bytes at `base` and `pc` is as it was: the frame of an instruction that stores. -/
def WritesOnlyMemoryAt (base count : Nat) (s t : State) : Prop :=
  KeepsRegs [] s t ∧ t.I = s.I ∧ KeepsMemoryOutside base count s t ∧ KeepsDisplay s t ∧ KeepsStack s t ∧
    KeepsTimers s t ∧ KeepsHostSide s t ∧ t.draws = s.draws

/-- Everything but the registers of `rs`, the framebuffer, `redraw_pending` and `pc` is as it was: the frame of the
display instructions. -/
def WritesOnlyDisplay (rs : List RegIdx) (s t : State) : Prop :=
  KeepsRegs rs s t ∧ t.I = s.I ∧ KeepsMemory s t ∧ KeepsStack s t ∧ KeepsTimers s t ∧ KeepsHostSide s t ∧
    t.draws = s.draws

/-- Everything but the timers and `pc` is as it was: the frame of the instructions that set a timer. -/
def WritesOnlyTimers (s t : State) : Prop :=
  KeepsRegs [] s t ∧ t.I = s.I ∧ KeepsMemory s t ∧ KeepsDisplay s t ∧ KeepsStack s t ∧ KeepsHostSide s t ∧
    t.draws = s.draws

/-- Everything but the call stack, `sp` and `pc` is as it was: the frame of call and return. -/
def WritesOnlyStack (s t : State) : Prop :=
  KeepsRegs [] s t ∧ t.I = s.I ∧ KeepsMemory s t ∧ KeepsDisplay s t ∧ KeepsTimers s t ∧ KeepsHostSide s t ∧
    t.draws = s.draws

/-- The state a fault leaves: only `status` differs (R246). -/
def State.faultedWith (s : State) (c : Fault) : State := { s with status := .faulted c }

end Sys2Proof.Machine
end

