-- ==== Sys2Proof/Certificates/Slice0/Obligations.lean ====
section
/-! DEFINITION. The statements for the provers, one `def Obligations.<Name> : Prop` each, taken from the numbered rules of
spec/ file by file. The terms they use beside the model's own (`Sys2Proof.Claims.…`) stand first. -/

open Sys2Proof Sys2Proof.Machine

namespace Sys2Proof.Claims

/-! ### Terms of the statements -/

/-- R100's table of the reserved words, row by row, on the word as a number. -/
def reservedIn : ReservedWord → Nat → Prop
  | .group0, n => n / 4096 = 0x0 ∧ n ≠ 0x00E0 ∧ n ≠ 0x00EE
  | .group5, n => n / 4096 = 0x5 ∧ n % 16 ≠ 0
  | .group8, n => n / 4096 = 0x8 ∧ n % 16 ∈ [0x8, 0x9, 0xA, 0xB, 0xC, 0xD, 0xF]
  | .group9, n => n / 4096 = 0x9 ∧ n % 16 ≠ 0
  | .groupE, n => n / 4096 = 0xE ∧ n % 256 ∉ [0x9E, 0xA1]
  | .groupF, n => n / 4096 = 0xF ∧ n % 256 ∉ [0x07, 0x0A, 0x15, 0x18, 0x1E, 0x29, 0x33, 0x55, 0x65]

/-- A reserved word of any row of R100's table. -/
def reservedNumber (n : Nat) : Prop := ∃ g : ReservedWord, reservedIn g n

/-- The next event of `s` is a `Step`, and `u` is the state that `Step` acts on: `s` itself when the agenda is empty, and
`s` without that event when a `Step` stands first on it (assumption log 2). -/
def stepDue (s u : State) : Prop :=
  (s.agenda = [] ∧ u = s) ∨ ∃ es, s.agenda = .step :: es ∧ u = s.setAgenda es

/-- The next event of `s` executes the instruction `i`. -/
def runsInstruction (s : State) (i : Instr) : Prop :=
  s.status = .running ∧ (∃ u, stepDue s u) ∧ s.pc.toNat + 1 < 4096 ∧ decode s.fetchWord = .ok i

/-- The word at `pc` is `n`, and a `Step` that comes next runs that word. -/
def fetchesNext (s : State) (n : Nat) : Prop :=
  s.fetchWord.toNat = n ∧ ∀ u, stepDue s u → s.status = .running → step s = runWord s.fetchWord u

/-- An instruction with the field `Y` that R95 says is ignored set to 0, as an assembler emits it. -/
def withIgnoredYZero : Instr → Instr
  | .shr x _ => .shr x 0
  | .shl x _ => .shl x 0
  | i => i

/-- The fault an instruction raises in a state, by R240's table (rows 3 to 6) and R242 to R245; `none` for every
other instruction and state (R247). -/
def faultOf : Instr → State → Option Fault
  | .call _, s => if s.sp.val = 16 then some .stackOverflow else none
  | .ret, s => if s.sp.val = 0 then some .stackUnderflow else none
  | .drw _ _ n, s =>
    if 1 ≤ n.toNat ∧ 4096 ≤ s.I.toNat + n.toNat - 1 then some (.dataAddressOutOfBounds s.I) else none
  | .bcd _, s => if 4096 ≤ s.I.toNat + 2 then some (.dataAddressOutOfBounds s.I) else none
  | .stm x, s => if 4096 ≤ s.I.toNat + x.val then some (.dataAddressOutOfBounds s.I) else none
  | .ldm x, s => if 4096 ≤ s.I.toNat + x.val then some (.dataAddressOutOfBounds s.I) else none
  | .skp x, s => if 15 < (s.reg x).toNat then some (.keyIndexOutOfRange (s.reg x)) else none
  | .sknp x, s => if 15 < (s.reg x).toNat then some (.keyIndexOutOfRange (s.reg x)) else none
  | _, _ => none

/-- Whether the key whose number a register holds is pressed. -/
def keyNamed (s : State) (x : RegIdx) : Bool := s.keys.toList.getD (s.reg x).toNat false

/-- R123's table: `pc` at the end of an instruction that does not fault, as a number. -/
def pcAfter : Instr → State → Nat
  | .jp nnn, _ => nnn.toNat
  | .jpv0 nnn, s => nnn.toNat + (s.reg 0).toNat
  | .call nnn, _ => nnn.toNat
  | .ret, s => (s.stack.toList.getD (s.sp.val - 1) 0).toNat
  | .sei x nn, s => if s.reg x = nn then s.pc.toNat + 4 else s.pc.toNat + 2
  | .snei x nn, s => if s.reg x = nn then s.pc.toNat + 2 else s.pc.toNat + 4
  | .se x y, s => if s.reg x = s.reg y then s.pc.toNat + 4 else s.pc.toNat + 2
  | .sne x y, s => if s.reg x = s.reg y then s.pc.toNat + 2 else s.pc.toNat + 4
  | .skp x, s => if keyNamed s x then s.pc.toNat + 4 else s.pc.toNat + 2
  | .sknp x, s => if keyNamed s x then s.pc.toNat + 2 else s.pc.toNat + 4
  | .wkey _, s => if ∃ k : Fin 16, s.key k = true then s.pc.toNat + 2 else s.pc.toNat
  | _, s => s.pc.toNat + 2

/-- The registers an instruction writes: its destination, and register 15 for the six instructions of R21's table. -/
def destinations : Instr → List RegIdx
  | .ldi x _ | .addi x _ | .mov x _ | .or x _ | .and x _ | .xor x _ | .rnd x _ | .gdt x | .wkey x => [x]
  | .add x _ | .sub x _ | .shr x _ | .subn x _ | .shl x _ => [x, 15]
  | .drw _ _ _ => [15]
  | .ldm x => (List.finRange 16).filter (fun z => decide (z ≤ x))
  | _ => []

/-- Instructions that write the call stack or `sp` (R25, R26). -/
def touchesStack : Instr → Bool
  | .call _ | .ret => true
  | _ => false

/-- Run a list of instructions one after the other, each to its next state. -/
def runAll : List Instr → State → Option State
  | [], s => some s
  | i :: is, s =>
    match exec i s with
    | .next t => runAll is t
    | _ => none

/-- A picture: the framebuffer as a function of row and column. -/
abbrev Picture := Fin 32 → Fin 64 → Bool

/-- A picture with one cell set. -/
def Picture.put (p : Picture) (r : Fin 32) (c : Fin 64) (b : Bool) : Picture :=
  fun i j => if i = r ∧ j = c then b else p i j

/-- What a coordinate register reads during a DXYN that starts in `s`, when the flag is `f`: register 15 reads as the
flag, every other as it stood (R203, R15). -/
def coordinate (s : State) (z : RegIdx) (f : Bool) : Nat := if z = 15 then (if f then 1 else 0) else (s.reg z).toNat

/-- One pixel of R203's inner loop, on a picture and the flag. -/
def blitPixel (s : State) (x : RegIdx) (row : Fin 32) (b : Byte) (p : Picture × Bool) (c : Nat) : Picture × Bool :=
  let col := colOfNat (coordinate s x p.2 + c)
  if b.getLsbD (7 - c) then
    if p.1 row col then (p.1.put row col false, true) else (p.1.put row col true, p.2)
  else p

/-- One row of R203's outer loop. -/
def blitRow (s : State) (x y : RegIdx) (p : Picture × Bool) (r : Nat) : Picture × Bool :=
  (List.range 8).foldl
    (blitPixel s x (rowOfNat (coordinate s y p.2 + r)) (s.memByte (s.I.toNat + r))) p

/-- R203's loops over a sprite of `n` rows, from the flag reset to 0. -/
def blit (s : State) (x y : RegIdx) (n : Nat) : Picture × Bool :=
  (List.range n).foldl (blitRow s x y) (s.cell, false)

/-- The sprite has a 1 at the cell: some row `r` below `n` and some column offset `c` below 8 land there with bit
`7 - c` of the byte at `I + r` set (R202, R204). -/
def spriteBit (s : State) (x y : RegIdx) (n : Nat) (i : Fin 32) (j : Fin 64) : Prop :=
  ∃ r c : Nat, r < n ∧ c < 8 ∧ ((s.reg y).toNat + r) % 32 = i.val ∧ ((s.reg x).toNat + c) % 64 = j.val ∧
    (s.memByte (s.I.toNat + r)).getLsbD (7 - c) = true

end Sys2Proof.Claims

open Sys2Proof.Claims

/-! ### Encoding (30_encoding.md) -/

/-- R91, R96, R98: the word of every instruction, with every operand at every value, decodes to that instruction. -/
def Obligations.DecodeOfEncodeIsIdentity : Prop := ∀ i : Instr, i.wellFormed = true ∧ decode (encode i) = .ok i

/-- R91, R96: a word has one meaning: the instruction it decodes to encodes to that word and no other. -/
def Obligations.EncodeOfDecodeIsIdentity : Prop := ∀ (w : Word) (i : Instr), decode w = .ok i → encode i = w

/-- R96: there are 34 rows and a word is a row's instruction exactly when `w & mask = match`. -/
def Obligations.DecodeFollowsOpcodeTable : Prop :=
  opcodeTable.length = 34 ∧
  ∀ (w : Word) (r : OpcodeRow), r ∈ opcodeTable →
    (w &&& r.mask = r.pattern ↔ ∃ i : Instr, decode w = .ok i ∧ i.mnemonic = r.mnemonic)

/-- R97: no word matches two rows. -/
def Obligations.NoWordMatchesTwoRows : Prop :=
  ∀ (w : Word) (r q : OpcodeRow), r ∈ opcodeTable → q ∈ opcodeTable → r.covers w = true → q.covers w = true → r = q

/-- R98, R100: the decoder rejects exactly the words of R100's table, each under the name of its row's group. -/
def Obligations.DecodeRejectsExactlyReservedWords : Prop :=
  ∀ (w : Word) (g : ReservedWord), decode w = .error g ↔ reservedIn g w.toNat

/-- A few words written out from R91, R96 and R100: their numbers decode to the instruction they stand for, and reserved
ones to none. -/
def Obligations.SampleWordsDecode : Prop :=
  decodeTableWord 16 0x00E0 = some .cls ∧ decodeTableWord 16 0x220A = some (.call 0x20A) ∧
  decodeTableWord 16 0x3A42 = some (.sei 10 0x42) ∧ decodeTableWord 16 0x9120 = some (.sne 1 2) ∧
  decodeTableWord 16 0x8176 = some (.shr 1 7) ∧ decodeTableWord 16 0xA2F0 = some (.lda 0x2F0) ∧
  decodeTableWord 16 0xC30F = some (.rnd 3 0x0F) ∧ decodeTableWord 16 0xD125 = some (.drw 1 2 5) ∧
  decodeTableWord 16 0xE2A1 = some (.sknp 2) ∧ decodeTableWord 16 0xF165 = some (.ldm 1) ∧
  decodeTableWord 16 0x8128 = none ∧ decodeTableWord 16 0x0000 = none

/-- R105: the assembler line of an instruction gives a word that decodes to it (to it with `Y = 0`, for the shifts). -/
def Obligations.AssembledLineDecodesToInstruction : Prop :=
  ∀ (i : Instr) (r : OpcodeRow), r ∈ opcodeTable → r.mnemonic = i.mnemonic →
    ∃ w : Word, r.assemble i.asmOperands = some w ∧ decode w = .ok (withIgnoredYZero i)

/-! ### The step cycle (40_flow.md, 20_memory.md, 60_exceptions.md) -/

/-- R121: when the two bytes at `pc` decode to a well-formed instruction, a step whose next event is `Step` is that
instruction; an event `Step` on the agenda (assumption log 2) is taken off it first and nothing else is added. -/
def Obligations.StepRunsDecodedInstruction : Prop :=
  ∀ (s : State) (i : Instr) (es : List Event), s.status = .running → s.pc.toNat + 1 < 4096 →
    decodeBytes [s.memByte s.pc.toNat, s.memByte (s.pc.toNat + 1)] = .ok (i, []) → i.wellFormed = true →
    (s.agenda = [] → step s = exec i s) ∧ (s.agenda = .step :: es → step s = exec i (s.setAgenda es))

/-- R66: the fetch faults exactly when `pc + 1` is 4096 or more, and reads the two bytes at `pc` big-endian otherwise:
the step is then the instruction of that word, or the no-operation of a reserved word. For a `Step` on the agenda and for
one that follows an empty agenda alike. -/
def Obligations.FetchIsBigEndianAndBoundsChecked : Prop :=
  ∀ s u : State, stepDue s u → s.status = .running →
    (4096 ≤ s.pc.toNat + 1 → step s = .next (u.faultedWith (.programCounterOutOfBounds s.pc))) ∧
    (s.pc.toNat + 1 < 4096 →
      ∃ w : Word, w.toNat = (s.memByte s.pc.toNat).toNat * 256 + (s.memByte (s.pc.toNat + 1)).toNat ∧
        (∀ i, decode w = .ok i → step s = exec i u) ∧
        (∀ g, decode w = .error g → step s = .next { u with pc := s.pc + 2 }))

/-- R133: a step on any reserved word of R100's table advances `pc` by 2 and changes nothing else, whether the `Step`
stands on the agenda or follows an empty one. -/
def Obligations.ReservedWordOnlyAdvances : Prop :=
  ∀ s u : State, stepDue s u → s.status = .running → s.pc.toNat + 1 < 4096 →
    reservedNumber ((s.memByte s.pc.toNat).toNat * 256 + (s.memByte (s.pc.toNat + 1)).toNat) →
    step s = .next { u with pc := s.pc + 2 }

/-- R120: a `Step` that the host issues to a machine that is not `Running` changes nothing. When the host has nothing
left to issue but steps, the outcome reports the condition (the form of the report is the model's, assumption log 1). -/
def Obligations.StepActsOnlyWhenRunning : Prop :=
  ∀ s : State,
    (∀ es, s.agenda = .step :: es → s.status ≠ .running → step s = .next { s with agenda := es }) ∧
    (∀ c, s.agenda = [] → s.status = .faulted c → step s = .fault c) ∧
    (s.agenda = [] → s.status = .unloaded → step s = .refused .unloaded)

/-- R246: a `Step` that raises a fault writes nothing but `status` (and is off the agenda, where it stood on it). -/
def Obligations.FaultingStepWritesOnlyStatus : Prop :=
  ∀ (s t : State) (c : Fault), s.status = .running → step s = .next t → t.status = .faulted c →
    (s.agenda = [] → t = s.faultedWith c) ∧ (∀ es, s.agenda = .step :: es → t = (s.setAgenda es).faultedWith c)

/-- R242 to R245, R247: an instruction takes exactly the fault of R240's table, with nothing else written; where the
table gives none it answers a next state with `status` as it was. -/
def Obligations.InstructionFaultsExactlyAsTabled : Prop :=
  ∀ (i : Instr) (s : State),
    (∀ c, faultOf i s = some c → exec i s = .next (s.faultedWith c)) ∧
    (faultOf i s = none → ∃ t, exec i s = .next t ∧ t.status = s.status)

/-- R249: an accepted `Load` leaves `Faulted(c)` for `Running`, and every other event keeps `Faulted(c)`. -/
def Obligations.OnlyLoadLeavesFaulted : Prop :=
  ∀ (s : State) (c : Fault), s.status = .faulted c →
    (∀ (rom : List Byte) (b : Bool) (es : List Event), s.agenda = .load rom b :: es → rom.length ≤ 3584 →
      ∃ t, step s = .next t ∧ t.status = .running) ∧
    (∀ t, step s = .next t →
      (∀ (rom : List Byte) (b : Bool) (es : List Event), s.agenda = .load rom b :: es → 3584 < rom.length) →
      t.status = .faulted c)

/-- R9: one event at a time: a step takes exactly the first event off the agenda (the model's way to hold the host's
events, assumption log 2). -/
def Obligations.StepTakesOneEvent : Prop := ∀ s t : State, step s = .next t → t.agenda = s.agenda.tail

/-- R123: how `pc` ends a step, for every class of the table: an instruction, a reserved word, and a step whose fetch
faults. Instructions and reserved words at a `pc` from which a word can be fetched, as R123 is about a step. -/
def Obligations.PcEndsAsClassSays : Prop :=
  ∀ s : State,
    (s.pc.toNat + 1 < 4096 → ∀ i : Instr, ∃ t, exec i s = .next t ∧
      t.pc.toNat = (match faultOf i s with | some _ => s.pc.toNat | none => pcAfter i s)) ∧
    (s.pc.toNat + 1 < 4096 → ∀ (w : Word) (g : ReservedWord), decode w = .error g → ∃ t, runWord w s = .next t ∧
      t.pc.toNat = s.pc.toNat + 2) ∧
    (4096 ≤ s.pc.toNat + 1 → s.status = .running → (∃ u, stepDue s u) → ∃ t, step s = .next t ∧ t.pc = s.pc)

/-- R23, R28: every step, of every event, keeps the machine's invariant: memory in canonical form inside 0 to 4095, `pc`
at most 0x10FE, every stack entry at most 0x1000 (the bounds are derived in R23, the canonical form is the model's, log 3). -/
def Obligations.InvariantKeptByEveryStep : Prop := ∀ s t : State, s.Inv → step s = .next t → t.Inv

/-- The invariant holds at reset. -/
def Obligations.ResetMeetsInvariant : Prop := State.reset.Inv

/-- R34: the values the spec gives for the state after `Load`, at reset: registers, `pc`, `I`, stack, `sp`, timers,
framebuffer, the font bytes and `status`. That `I` is 0 is the spec's decision D8. -/
def Obligations.ResetValues : Prop :=
  (∀ z : RegIdx, State.reset.reg z = 0) ∧ State.reset.pc = 0x200 ∧ State.reset.I = 0 ∧
  (∀ k : Fin 16, State.reset.stack[k] = 0) ∧ State.reset.sp = 0 ∧ State.reset.DT = 0 ∧ State.reset.ST = 0 ∧
  (∀ (r : Fin 32) (c : Fin 64), State.reset.cell r c = false) ∧
  (∀ a, a < 80 → State.reset.memByte a = Config.font a) ∧ State.reset.status = .running

/-! ### Control transfer (40_flow.md) -/

/-- R125, R128: 1NNN and BNNN set `pc` to their target, with no `+ 2` and no reduction, and change nothing else. -/
def Obligations.JumpsSetPc : Prop :=
  ∀ (s : State) (nnn : Addr),
    (∃ t, exec (.jp nnn) s = .next t ∧ t.pc.toNat = nnn.toNat ∧ WritesOnlyRegsNoDraw [] s t) ∧
    (∃ t, exec (.jpv0 nnn) s = .next t ∧ t.pc.toNat = nnn.toNat + (s.reg 0).toNat ∧ WritesOnlyRegsNoDraw [] s t)

/-- R124: a jump to its own address leaves every state element unchanged (a `Step` on the agenda is taken off it). -/
def Obligations.JumpToSelfChangesNothing : Prop :=
  ∀ (s u : State) (nnn : Addr), stepDue s u → s.status = .running → s.pc.toNat = nnn.toNat → nnn.toNat + 1 < 4096 →
    decode s.fetchWord = .ok (.jp nnn) → step s = .next u

/-- R126: 2NNN with room on the stack writes `pc + 2` at `stack[sp]`, increments `sp` and jumps; with `sp = 16` it takes
`StackOverflow` and writes nothing else. -/
def Obligations.CallPushesReturnAddress : Prop :=
  ∀ (s : State) (nnn : Addr),
    (∀ h : s.sp.val < 16, ∃ t, exec (.call nnn) s = .next t ∧ t.stack[s.sp.val]'h = s.pc + 2 ∧
      (∀ k : Fin 16, k.val ≠ s.sp.val → t.stack[k] = s.stack[k]) ∧ t.sp.val = s.sp.val + 1 ∧
      t.pc.toNat = nnn.toNat ∧ WritesOnlyStack s t) ∧
    (s.sp.val = 16 → exec (.call nnn) s = .next (s.faultedWith .stackOverflow))

/-- R127: 00EE with a non-empty stack decrements `sp` and jumps to the entry it then points at, which keeps its value;
with `sp = 0` it takes `StackUnderflow` and writes nothing else. -/
def Obligations.ReturnPopsAddress : Prop :=
  ∀ s : State,
    (∀ k : Fin 16, s.sp.val = k.val + 1 → ∃ t, exec .ret s = .next t ∧ t.sp.val = k.val ∧ t.pc = s.stack[k] ∧
      (∀ j : Fin 16, t.stack[j] = s.stack[j]) ∧ WritesOnlyStack s t) ∧
    (s.sp.val = 0 → exec .ret s = .next (s.faultedWith .stackUnderflow))

/-- R134, over instructions alone: after a call and any instructions other than call and return, executed one after the
other with no event of the host between them, a return comes back to the address after the call with `sp` as it was. Over
steps and events: `CallAndReturnPairUpOverEvents`. -/
def Obligations.CallAndReturnPairUp : Prop :=
  ∀ (s t u : State) (nnn : Addr) (is : List Instr), s.sp.val < 16 → exec (.call nnn) s = .next t →
    (∀ i ∈ is, touchesStack i = false) → runAll is t = some u →
    ∃ w, exec .ret u = .next w ∧ w.pc = s.pc + 2 ∧ w.sp = s.sp

/-- R129 to R132: the four register skips end at `pc + 4` when their condition holds and at `pc + 2` when not, and change
nothing else. -/
def Obligations.RegisterSkipsMovePc : Prop :=
  ∀ (s : State) (x y : RegIdx) (nn : Byte), s.pc.toNat + 1 < 4096 →
    (∃ t, exec (.sei x nn) s = .next t ∧ WritesOnlyRegsNoDraw [] s t ∧
      t.pc.toNat = if (s.reg x).toNat = nn.toNat then s.pc.toNat + 4 else s.pc.toNat + 2) ∧
    (∃ t, exec (.snei x nn) s = .next t ∧ WritesOnlyRegsNoDraw [] s t ∧
      t.pc.toNat = if (s.reg x).toNat = nn.toNat then s.pc.toNat + 2 else s.pc.toNat + 4) ∧
    (∃ t, exec (.se x y) s = .next t ∧ WritesOnlyRegsNoDraw [] s t ∧
      t.pc.toNat = if (s.reg x).toNat = (s.reg y).toNat then s.pc.toNat + 4 else s.pc.toNat + 2) ∧
    (∃ t, exec (.sne x y) s = .next t ∧ WritesOnlyRegsNoDraw [] s t ∧
      t.pc.toNat = if (s.reg x).toNat = (s.reg y).toNat then s.pc.toNat + 2 else s.pc.toNat + 4)

/-- R25, R26: no instruction but 2NNN and 00EE touches the call stack or `sp`. -/
def Obligations.OnlyCallAndReturnTouchStack : Prop :=
  ∀ (i : Instr) (s t : State), exec i s = .next t → touchesStack i = false → KeepsStack s t

/-! ### Arithmetic and logic (41_alu.md) -/

/-- R151, R153: 6XNN and 8XY0 write their one register. -/
def Obligations.LoadImmediateAndCopy : Prop :=
  ∀ (s : State) (x y : RegIdx) (nn : Byte),
    (∃ t, exec (.ldi x nn) s = .next t ∧ t.reg x = nn ∧ t.pc = s.pc + 2 ∧ WritesOnlyRegsNoDraw [x] s t) ∧
    (∃ t, exec (.mov x y) s = .next t ∧ t.reg x = s.reg y ∧ t.pc = s.pc + 2 ∧ WritesOnlyRegsNoDraw [x] s t)

/-- R152: 7XNN adds modulo 256 and writes no flag (register 15 only as its plain destination). -/
def Obligations.AddImmediateWrapsWithoutFlag : Prop :=
  ∀ (s : State) (x : RegIdx) (nn : Byte), ∃ t, exec (.addi x nn) s = .next t ∧
    (t.reg x).toNat = ((s.reg x).toNat + nn.toNat) % 256 ∧ t.pc = s.pc + 2 ∧ WritesOnlyRegsNoDraw [x] s t

/-- R154, R155, R156: the logic instructions work bit by bit and leave the flag alone. -/
def Obligations.LogicWorksBitwiseWithoutFlag : Prop :=
  ∀ (s : State) (x y : RegIdx),
    (∃ t, exec (.or x y) s = .next t ∧ (∀ k, (t.reg x).getLsbD k = ((s.reg x).getLsbD k || (s.reg y).getLsbD k)) ∧
      t.pc = s.pc + 2 ∧ WritesOnlyRegsNoDraw [x] s t) ∧
    (∃ t, exec (.and x y) s = .next t ∧ (∀ k, (t.reg x).getLsbD k = ((s.reg x).getLsbD k && (s.reg y).getLsbD k)) ∧
      t.pc = s.pc + 2 ∧ WritesOnlyRegsNoDraw [x] s t) ∧
    (∃ t, exec (.xor x y) s = .next t ∧ (∀ k, (t.reg x).getLsbD k = ((s.reg x).getLsbD k ^^ (s.reg y).getLsbD k)) ∧
      t.pc = s.pc + 2 ∧ WritesOnlyRegsNoDraw [x] s t)

/-- R157: 8XY4 writes the sum modulo 256 to `V[X]` and the carry to `V[15]`; with `X = 15` the sum overwrites the
carry. -/
def Obligations.AddWritesSumAndCarry : Prop :=
  ∀ (s : State) (x y : RegIdx), ∃ t, exec (.add x y) s = .next t ∧
    (t.reg x).toNat = ((s.reg x).toNat + (s.reg y).toNat) % 256 ∧
    (x ≠ 15 → (t.reg 15).toNat = if (s.reg x).toNat + (s.reg y).toNat > 255 then 1 else 0) ∧
    t.pc = s.pc + 2 ∧ WritesOnlyRegsNoDraw [x, 15] s t

/-- R158: 8XY5, with the results of the literal order (R15) where register 15 is an operand; `f` is the flag of its first
line. -/
def Obligations.SubtractWritesDifferenceAndNoBorrow : Prop :=
  ∀ (s : State) (x y : RegIdx) (f : Nat), f = (if (s.reg x).toNat ≥ (s.reg y).toNat then 1 else 0) →
    ∃ t, exec (.sub x y) s = .next t ∧ t.pc = s.pc + 2 ∧ WritesOnlyRegsNoDraw [x, 15] s t ∧
      (x ≠ 15 → y ≠ 15 →
        (t.reg x).toNat = ((s.reg x).toNat + 256 - (s.reg y).toNat) % 256 ∧ (t.reg 15).toNat = f) ∧
      (x = 15 → y ≠ 15 → (t.reg 15).toNat = (f + 256 - (s.reg y).toNat) % 256) ∧
      (x ≠ 15 → y = 15 → (t.reg x).toNat = ((s.reg x).toNat + 256 - f) % 256 ∧ (t.reg 15).toNat = f) ∧
      (x = 15 → y = 15 → (t.reg 15).toNat = 0)

/-- R160: 8XY7, with the results of the literal order (R15) where register 15 is an operand; `f` is the flag of its first
line. -/
def Obligations.ReverseSubtractWritesDifferenceAndNoBorrow : Prop :=
  ∀ (s : State) (x y : RegIdx) (f : Nat), f = (if (s.reg y).toNat ≥ (s.reg x).toNat then 1 else 0) →
    ∃ t, exec (.subn x y) s = .next t ∧ t.pc = s.pc + 2 ∧ WritesOnlyRegsNoDraw [x, 15] s t ∧
      (x ≠ 15 → y ≠ 15 →
        (t.reg x).toNat = ((s.reg y).toNat + 256 - (s.reg x).toNat) % 256 ∧ (t.reg 15).toNat = f) ∧
      (x = 15 → y ≠ 15 → (t.reg 15).toNat = ((s.reg y).toNat + 256 - f) % 256) ∧
      (x ≠ 15 → y = 15 → (t.reg x).toNat = (f + 256 - (s.reg x).toNat) % 256 ∧ (t.reg 15).toNat = f) ∧
      (x = 15 → y = 15 → (t.reg 15).toNat = 0)

/-- R159, R95: 8XY6 halves `V[X]` and writes its old bit 0 to `V[15]`; with `X = 15` it leaves 0; `Y` is ignored. -/
def Obligations.ShiftRightHalves : Prop :=
  ∀ (s : State) (x y z : RegIdx), exec (.shr x y) s = exec (.shr x z) s ∧
    ∃ t, exec (.shr x y) s = .next t ∧ t.pc = s.pc + 2 ∧ WritesOnlyRegsNoDraw [x, 15] s t ∧
      (x ≠ 15 → (t.reg x).toNat = (s.reg x).toNat / 2 ∧ (t.reg 15).toNat = (s.reg x).toNat % 2) ∧
      (x = 15 → (t.reg 15).toNat = 0)

/-- R161, R95: 8XYE doubles `V[X]` modulo 256 and writes its old bit 7 to `V[15]`; with `X = 15` it leaves twice that
bit; `Y` is ignored. -/
def Obligations.ShiftLeftDoubles : Prop :=
  ∀ (s : State) (x y z : RegIdx), exec (.shl x y) s = exec (.shl x z) s ∧
    ∃ t, exec (.shl x y) s = .next t ∧ t.pc = s.pc + 2 ∧ WritesOnlyRegsNoDraw [x, 15] s t ∧
      (x ≠ 15 → (t.reg x).toNat = (s.reg x).toNat * 2 % 256 ∧ (t.reg 15).toNat = (s.reg x).toNat / 128) ∧
      (x = 15 → (t.reg 15).toNat = 2 * ((s.reg 15).toNat / 128))

/-- R162: 8 bits of the drawn byte masked by NN: a bit where NN has 0 is 0, a bit where NN has 1 is the drawn byte's;
nothing but `V[X]`, `pc` and the count of draws changes. The drawn byte is the free value `Config.rand` of the
count of draws (the model's choice, assumption log 8). -/
def Obligations.RandomByteIsMasked : Prop :=
  ∀ (s : State) (x : RegIdx) (nn : Byte), ∃ t, exec (.rnd x nn) s = .next t ∧
    (∀ k, (t.reg x).getLsbD k = ((Config.rand s.draws).getLsbD k && nn.getLsbD k)) ∧
    t.draws = s.draws + 1 ∧ t.pc = s.pc + 2 ∧ WritesOnlyRegs [x] s t

/-- R20, R21: an instruction writes no register but its destinations, register 15 among them only for the six
instructions of R21's table or as a plain destination. -/
def Obligations.OnlyDestinationRegistersChange : Prop :=
  ∀ (i : Instr) (s t : State), exec i s = .next t → KeepsRegs (destinations i) s t

/-! ### Index register and memory (42_index_memory.md) -/

/-- R181, R182, R183: the three instructions that set `I`: the zero-extended address, the sum modulo 65536, five times
the whole register; none writes a flag. -/
def Obligations.IndexInstructionsSetI : Prop :=
  ∀ (s : State) (nnn : Addr) (x : RegIdx),
    (∃ t, exec (.lda nnn) s = .next t ∧ t.I.toNat = nnn.toNat ∧ t.pc = s.pc + 2 ∧ WritesOnlyIndex s t) ∧
    (∃ t, exec (.adda x) s = .next t ∧ t.I.toNat = (s.I.toNat + (s.reg x).toNat) % 65536 ∧ t.pc = s.pc + 2 ∧
      WritesOnlyIndex s t) ∧
    (∃ t, exec (.glyph x) s = .next t ∧ t.I.toNat = (s.reg x).toNat * 5 ∧ t.pc = s.pc + 2 ∧ WritesOnlyIndex s t)

/-- R184: FX33 stores the three decimal digits, hundreds first, at `I`, and nothing else; a range that ends at 4096 or
above faults with no byte written. -/
def Obligations.DecimalDigitsAreStored : Prop :=
  ∀ (s : State) (x : RegIdx),
    (s.I.toNat + 2 < 4096 → ∃ t, exec (.bcd x) s = .next t ∧
      (t.memByte (s.dataAddr 0)).toNat = (s.reg x).toNat / 100 ∧
      (t.memByte (s.dataAddr 1)).toNat = (s.reg x).toNat / 10 % 10 ∧
      (t.memByte (s.dataAddr 2)).toNat = (s.reg x).toNat % 10 ∧
      t.pc = s.pc + 2 ∧ WritesOnlyMemoryAt (s.dataAddr 0) 3 s t) ∧
    (4096 ≤ s.I.toNat + 2 → exec (.bcd x) s = .next (s.faultedWith (.dataAddressOutOfBounds s.I)))

/-- R186: FX55 stores `V[0]` to `V[X]` at `I` upward, and nothing else; a range that ends at 4096 or above faults with no
byte written. -/
def Obligations.RegistersAreStored : Prop :=
  ∀ (s : State) (x : RegIdx),
    (s.I.toNat + x.val < 4096 → ∃ t, exec (.stm x) s = .next t ∧
      (∀ z : RegIdx, z ≤ x → t.memByte (s.dataAddr z.val) = s.reg z) ∧
      t.pc = s.pc + 2 ∧ WritesOnlyMemoryAt (s.dataAddr 0) (x.val + 1) s t) ∧
    (4096 ≤ s.I.toNat + x.val → exec (.stm x) s = .next (s.faultedWith (.dataAddressOutOfBounds s.I)))

/-- R187: FX65 loads `V[0]` to `V[X]` from `I` upward, and changes nothing else; a range that ends at 4096 or above
faults with no register written. -/
def Obligations.RegistersAreLoaded : Prop :=
  ∀ (s : State) (x : RegIdx),
    (s.I.toNat + x.val < 4096 → ∃ t, exec (.ldm x) s = .next t ∧
      (∀ z : RegIdx, z ≤ x → t.reg z = s.memByte (s.dataAddr z.val)) ∧
      (∀ z : RegIdx, x < z → t.reg z = s.reg z) ∧
      t.pc = s.pc + 2 ∧ WritesOnlyRegsNoDraw (destinations (.ldm x)) s t) ∧
    (4096 ≤ s.I.toNat + x.val → exec (.ldm x) s = .next (s.faultedWith (.dataAddressOutOfBounds s.I)))

/-- R188: FX55 and then FX65 with the same `X` and the same `I` restore the registers, when neither faults and the range
is not written in between. -/
def Obligations.StoreThenLoadRestoresRegisters : Prop :=
  ∀ (s t u : State) (x : RegIdx), s.I.toNat + x.val < 4096 → exec (.stm x) s = .next t → u.I = s.I →
    (∀ a, s.I.toNat ≤ a → a ≤ s.I.toNat + x.val → u.memByte a = t.memByte a) →
    ∃ w, exec (.ldm x) u = .next w ∧ ∀ z : RegIdx, z ≤ x → w.reg z = s.reg z

/-- R61: no instruction writes memory but FX33 at `I` to `I + 2` and FX55 at `I` to `I + X`. -/
def Obligations.OnlyTwoInstructionsWriteMemory : Prop :=
  ∀ (i : Instr) (s t : State) (a : Nat), exec i s = .next t → t.memByte a ≠ s.memByte a →
    (∃ x, i = .bcd x ∧ s.I.toNat ≤ a ∧ a ≤ s.I.toNat + 2) ∨
    (∃ x, i = .stm x ∧ s.I.toNat ≤ a ∧ a ≤ s.I.toNat + x.val)

/-- R73: when `pc` points at two bytes that FX55 or FX33 has just stored, they are the word that the very next step
fetches and runs. -/
def Obligations.StoredBytesAreFetchedNext : Prop :=
  ∀ (s t : State) (x : RegIdx),
    (∀ z y : RegIdx, s.I.toNat + x.val < 4096 → exec (.stm x) s = .next t → y.val = z.val + 1 → y ≤ x →
      s.pc.toNat + 2 = s.I.toNat + z.val → fetchesNext t ((s.reg z).toNat * 256 + (s.reg y).toNat)) ∧
    (s.I.toNat + 2 < 4096 → exec (.bcd x) s = .next t → s.pc.toNat + 2 = s.I.toNat →
      fetchesNext t ((s.reg x).toNat / 100 * 256 + (s.reg x).toNat / 10 % 10)) ∧
    (s.I.toNat + 2 < 4096 → exec (.bcd x) s = .next t → s.pc.toNat + 2 = s.I.toNat + 1 →
      fetchesNext t ((s.reg x).toNat / 10 % 10 * 256 + (s.reg x).toNat % 10))

/-! ### Display (43_display.md) -/

/-- R201: 00E0 turns every cell off, sets `redraw_pending` and changes nothing else. -/
def Obligations.ClearTurnsEveryCellOff : Prop :=
  ∀ s : State, ∃ t, exec .cls s = .next t ∧ (∀ (r : Fin 32) (c : Fin 64), t.cell r c = false) ∧
    t.redrawPending = true ∧ t.pc = s.pc + 2 ∧ WritesOnlyDisplay [] s t

/-- R203: DXYN, for every `X`, `Y` and `N`: the picture and the flag are those of the rule's loops in their literal
order, `redraw_pending` is set whatever changed, and nothing else is written; a sprite that passes the end of memory faults
with nothing written. -/
def Obligations.DrawFollowsLiteralLoops : Prop :=
  ∀ (s : State) (x y : RegIdx) (n : Nibble),
    (n.toNat = 0 ∨ s.I.toNat + n.toNat - 1 < 4096 → ∃ t, exec (.drw x y n) s = .next t ∧
      (∀ (r : Fin 32) (c : Fin 64), t.cell r c = (blit s x y n.toNat).1 r c) ∧
      (t.reg 15).toNat = (if (blit s x y n.toNat).2 then 1 else 0) ∧
      t.redrawPending = true ∧ t.pc = s.pc + 2 ∧ WritesOnlyDisplay [15] s t) ∧
    (n.toNat ≠ 0 → 4096 ≤ s.I.toNat + n.toNat - 1 →
      exec (.drw x y n) s = .next (s.faultedWith (.dataAddressOutOfBounds s.I)))

/-- R204 (a) and (b): with coordinates not in register 15, every cell becomes itself XOR the sprite bit there, and `V[15]`
is 1 exactly when a cell that was on met a sprite bit of 1. -/
def Obligations.DrawXorsSpriteAndReportsCollision : Prop :=
  ∀ (s : State) (x y : RegIdx) (n : Nibble), x ≠ 15 → y ≠ 15 → (n.toNat = 0 ∨ s.I.toNat + n.toNat - 1 < 4096) →
    ∃ t, exec (.drw x y n) s = .next t ∧
      (∀ (r : Fin 32) (c : Fin 64),
        (spriteBit s x y n.toNat r c → t.cell r c = !s.cell r c) ∧
        (¬ spriteBit s x y n.toNat r c → t.cell r c = s.cell r c)) ∧
      ((∃ (r : Fin 32) (c : Fin 64), s.cell r c = true ∧ spriteBit s x y n.toNat r c) → t.reg 15 = 1) ∧
      ((¬ ∃ (r : Fin 32) (c : Fin 64), s.cell r c = true ∧ spriteBit s x y n.toNat r c) → t.reg 15 = 0)

/-- R204 (c): the same sprite drawn twice at the same place restores the framebuffer, and when the sprite has a 1 and the
cells under its 1s were all off before the first draw, the second reports a collision. The second draw may come from any state with the
framebuffer, `I`, the coordinates and the sprite bytes the first draw left. -/
def Obligations.DrawTwiceRestoresPicture : Prop :=
  ∀ (s t u : State) (x y : RegIdx) (n : Nibble), x ≠ 15 → y ≠ 15 → (n.toNat = 0 ∨ s.I.toNat + n.toNat - 1 < 4096) →
    exec (.drw x y n) s = .next t → u.fb = t.fb → u.I = s.I → u.reg x = s.reg x → u.reg y = s.reg y →
    (∀ r, r < n.toNat → u.memByte (s.I.toNat + r) = s.memByte (s.I.toNat + r)) →
    ∃ w, exec (.drw x y n) u = .next w ∧ (∀ (r : Fin 32) (c : Fin 64), w.cell r c = s.cell r c) ∧
      ((∃ (r : Fin 32) (c : Fin 64), spriteBit s x y n.toNat r c) →
        (∀ (r : Fin 32) (c : Fin 64), spriteBit s x y n.toNat r c → s.cell r c = false) → w.reg 15 = 1)

/-- R30, R31, R263: no instruction writes a key latch or clears `redraw_pending`; 00E0 sets it, DXYN sets it unless it
faults, and no other instruction writes it. -/
def Obligations.OnlyDisplayInstructionsSetRedraw : Prop :=
  ∀ (i : Instr) (s t : State), exec i s = .next t →
    t.keys = s.keys ∧
    (t.redrawPending = true ↔
      s.redrawPending = true ∨ i = .cls ∨ ((∃ x y n, i = .drw x y n) ∧ faultOf i s = none))

/-- R29, R200: the host reads 2048 cells, cell (`r`, `c`) as element `r * 64 + c`. -/
def Obligations.CellsAreReadRowMajor : Prop :=
  ∀ s : State, s.cellList.length = 2048 ∧
    ∀ (r : Fin 32) (c : Fin 64), s.cellList[r.val * 64 + c.val]? = some (s.cell r c)

/-! ### Timers and keys (44_timers_keys.md) -/

/-- R220, R221, R222: FX07 reads the delay timer, FX15 and FX18 write a timer, and nothing else changes. -/
def Obligations.TimerInstructionsMoveBytes : Prop :=
  ∀ (s : State) (x : RegIdx),
    (∃ t, exec (.gdt x) s = .next t ∧ t.reg x = s.DT ∧ t.pc = s.pc + 2 ∧ WritesOnlyRegsNoDraw [x] s t) ∧
    (∃ t, exec (.sdt x) s = .next t ∧ t.DT = s.reg x ∧ t.ST = s.ST ∧ t.pc = s.pc + 2 ∧ WritesOnlyTimers s t) ∧
    (∃ t, exec (.sst x) s = .next t ∧ t.ST = s.reg x ∧ t.DT = s.DT ∧ t.pc = s.pc + 2 ∧ WritesOnlyTimers s t)

/-- R223, R224: the key skips test the latch that the whole value of `V[X]` names, and fault above 15. -/
def Obligations.KeySkipsTestNamedLatch : Prop :=
  ∀ (s : State) (x : RegIdx),
    (∀ k : Fin 16, (s.reg x).toNat = k.val →
      (∃ t, exec (.skp x) s = .next t ∧ t.pc = (if s.key k then s.pc + 4 else s.pc + 2) ∧
        WritesOnlyRegsNoDraw [] s t) ∧
      (∃ t, exec (.sknp x) s = .next t ∧ t.pc = (if s.key k then s.pc + 2 else s.pc + 4) ∧
        WritesOnlyRegsNoDraw [] s t)) ∧
    (15 < (s.reg x).toNat →
      exec (.skp x) s = .next (s.faultedWith (.keyIndexOutOfRange (s.reg x))) ∧
      exec (.sknp x) s = .next (s.faultedWith (.keyIndexOutOfRange (s.reg x))))

/-- R225: FX0A with no key pressed changes nothing, `pc` included; with a key pressed it stores the index of a pressed
key and advances; with exactly one pressed, that one's. -/
def Obligations.KeyWaitStoresPressedKey : Prop :=
  ∀ (s : State) (x : RegIdx),
    ((∀ k : Fin 16, s.key k = false) → exec (.wkey x) s = .next s) ∧
    ((∃ k : Fin 16, s.key k = true) → ∃ (t : State) (k : Fin 16), exec (.wkey x) s = .next t ∧ s.key k = true ∧
      (t.reg x).toNat = k.val ∧ t.pc = s.pc + 2 ∧ WritesOnlyRegsNoDraw [x] s t) ∧
    (∀ k : Fin 16, s.key k = true → (∀ j : Fin 16, j ≠ k → s.key j = false) →
      ∃ t, exec (.wkey x) s = .next t ∧ (t.reg x).toNat = k.val)

/-- R27, R298: no instruction writes `DT` but FX15 and none writes `ST` but FX18, and over any step of any event `DT`
rises only when the step is an FX15 and `ST` only when it is an FX18. -/
def Obligations.TimersRiseOnlyByTheirInstruction : Prop :=
  (∀ (i : Instr) (s t : State), exec i s = .next t →
    (t.DT ≠ s.DT → ∃ x, i = .sdt x) ∧ (t.ST ≠ s.ST → ∃ x, i = .sst x)) ∧
  (∀ s t : State, step s = .next t →
    (s.DT.toNat < t.DT.toNat → ∃ x, runsInstruction s (.sdt x)) ∧
    (s.ST.toNat < t.ST.toNat → ∃ x, runsInstruction s (.sst x)))

/-! ### The host's events (60_exceptions.md, 70_reset_and_hazards.md) -/

/-- R260: `Tick` decrements each timer with a floor of zero and changes nothing else, in every `status`. -/
def Obligations.TickDecrementsTimers : Prop :=
  ∀ (s : State) (es : List Event), s.agenda = .tick :: es →
    ∃ t, step s = .next t ∧ t.DT.toNat = s.DT.toNat - 1 ∧ t.ST.toNat = s.ST.toNat - 1 ∧
      t = { s with DT := t.DT, ST := t.ST, agenda := es }

/-- R221, R260: after any number of ticks in a row each timer is its old value less that number, with a floor of zero; so
a timer that holds `v` reaches 0 after exactly `v` ticks. -/
def Obligations.TimersReachZeroAfterTheirCount : Prop :=
  ∀ (s : State) (n : Nat), (State.tick^[n] s).DT.toNat = s.DT.toNat - n ∧ (State.tick^[n] s).ST.toNat = s.ST.toNat - n

/-- R263, R264: `SetKeys` overwrites all sixteen latches and `AckRedraw` clears `redraw_pending`; neither changes
anything else. -/
def Obligations.HostLatchEventsWriteOneElement : Prop :=
  ∀ (s : State) (es : List Event) (k : Vector Bool 16),
    (s.agenda = .setKeys k :: es → ∃ t, step s = .next t ∧ (∀ j : Fin 16, t.key j = k[j]) ∧
      t = { s with keys := t.keys, agenda := es }) ∧
    (s.agenda = .ackRedraw :: es → step s = .next { s with redrawPending := false, agenda := es })

/-- R284, R285: an accepted `Load` sets every state element to its reset value, in every `status`, copies the image
verbatim to 0x200 upward and the font to 0, and leaves the key latches alone. -/
def Obligations.LoadResetsAndCopiesImage : Prop :=
  ∀ (s : State) (rom : List Byte) (b : Bool) (es : List Event), s.agenda = .load rom b :: es → rom.length ≤ 3584 →
    ∃ t, step s = .next t ∧ (∀ z : RegIdx, t.reg z = 0) ∧ t.pc = 0x200 ∧ t.I = 0 ∧
      (∀ k : Fin 16, t.stack[k] = 0) ∧ t.sp = 0 ∧ t.DT = 0 ∧ t.ST = 0 ∧
      (∀ (r : Fin 32) (c : Fin 64), t.cell r c = false) ∧ t.status = .running ∧ t.keys = s.keys ∧
      (∀ k : Nat, (h : k < rom.length) → t.memByte (0x200 + k) = rom[k]) ∧
      (∀ a, a < 80 → t.memByte a = Config.font a)

/-- R281: a `Load` of more than 3584 bytes changes no state element, `status` included; the report to the host is the
model's field `loadReport` (assumption log 7). -/
def Obligations.RejectedLoadChangesNothing : Prop :=
  ∀ (s : State) (rom : List Byte) (b : Bool) (es : List Event), s.agenda = .load rom b :: es → 3584 < rom.length →
    step s = .next { s with agenda := es, loadReport := some (.romTooLarge rom.length) }

/-! ### Runs of events -/

/-- R134, over steps: from a step that executes a call with `sp` below 16, through any events of any kind that leave `sp`
as it is (instructions, ticks, key writes, acknowledgements, rejected loads), to the next step that executes a return, the
state after the return has `pc` at the address after the call and `sp` as before it. `f` lists the states in order. -/
def Obligations.CallAndReturnPairUpOverEvents : Prop :=
  ∀ (f : Nat → State) (n : Nat) (nnn : Addr), (∀ k, k ≤ n + 1 → step (f k) = .next (f (k + 1))) →
    runsInstruction (f 0) (.call nnn) → (f 0).sp.val < 16 →
    (∀ k, 1 ≤ k → k ≤ n → (f (k + 1)).sp = (f k).sp) →
    runsInstruction (f (n + 1)) .ret →
    (f (n + 2)).pc = (f 0).pc + 2 ∧ (f (n + 2)).sp = (f 0).sp
end

