-- ==== Sys2Proof/Laws/Decode.lean ====
section
/-! SUPPORT. The fields of a packed word are the fields it was packed from, for each of the three layouts that the
encoder uses. -/

namespace Sys2Proof

theorem getLsbD_packAddr (op : BitVec 4) (nnn : Addr) (i : Nat) :
    (packAddr op nnn).getLsbD i = if i < 12 then nnn.getLsbD i else op.getLsbD (i - 12) := by
  have h := BitVec.getLsbD_append (x := op) (y := nnn) (i := i)
  rw [show (packAddr op nnn).getLsbD i = (op ++ nnn).getLsbD i from rfl, h]

theorem getLsbD_packRegImm (op : BitVec 4) (x : RegIdx) (nn : Byte) (i : Nat) :
    (packRegImm op x nn).getLsbD i =
      if i < 8 then nn.getLsbD i
      else if i < 12 then (regBits x).getLsbD (i - 8) else op.getLsbD (i - 12) := by
  have h := BitVec.getLsbD_append (x := op ++ regBits x) (y := nn) (i := i)
  rw [show (packRegImm op x nn).getLsbD i = (op ++ regBits x ++ nn).getLsbD i from rfl, h, BitVec.getLsbD_append]
  have e : i - 8 < 4 ↔ i < 12 := by omega
  have e2 : i - 8 - 4 = i - 12 := by omega
  simp [e, e2]

theorem getLsbD_packRegReg (op : BitVec 4) (x y : RegIdx) (n : Nibble) (i : Nat) :
    (packRegReg op x y n).getLsbD i =
      if i < 4 then n.getLsbD i
      else if i < 8 then (regBits y).getLsbD (i - 4)
      else if i < 12 then (regBits x).getLsbD (i - 8) else op.getLsbD (i - 12) := by
  have h := BitVec.getLsbD_append (x := op ++ regBits x ++ regBits y) (y := n) (i := i)
  rw [show (packRegReg op x y n).getLsbD i = (op ++ regBits x ++ regBits y ++ n).getLsbD i from rfl, h,
    BitVec.getLsbD_append, BitVec.getLsbD_append]
  have e1 : i - 4 < 4 ↔ i < 8 := by omega
  have e2 : i - 4 - 4 < 4 ↔ i < 12 := by omega
  have e3 : i - 4 - 4 = i - 8 := by omega
  have e4 : i - 8 - 4 = i - 12 := by omega
  have e5 : i - 8 < 4 ↔ i < 12 := by omega
  simp [e1, e3, e4, e5]

theorem toFin_regBits (x : RegIdx) : (regBits x).toFin = x := rfl

/-! ### Format FA -/

@[simp] theorem groupOf_packAddr (op : BitVec 4) (nnn : Addr) : groupOf (packAddr op nnn) = op := by
  ext i hi
  simp [groupOf, getLsbD_packAddr, BitVec.getLsbD_eq_getElem hi]

@[simp] theorem fieldNNN_packAddr (op : BitVec 4) (nnn : Addr) : fieldNNN (packAddr op nnn) = nnn := by
  ext i hi
  simp [fieldNNN, getLsbD_packAddr, hi]

/-! ### Formats FI and FX -/

@[simp] theorem groupOf_packRegImm (op : BitVec 4) (x : RegIdx) (nn : Byte) : groupOf (packRegImm op x nn) = op := by
  ext i hi
  have h1 : ¬ 12 + i < 8 := by omega
  simp [groupOf, getLsbD_packRegImm, h1, BitVec.getLsbD_eq_getElem hi]

@[simp] theorem fieldX_packRegImm (op : BitVec 4) (x : RegIdx) (nn : Byte) : fieldX (packRegImm op x nn) = x := by
  have h : (packRegImm op x nn).extractLsb' 8 4 = regBits x := by
    ext i hi
    have h1 : ¬ 8 + i < 8 := by omega
    have h2 : 8 + i < 12 := by omega
    simp [getLsbD_packRegImm, h2, BitVec.getLsbD_eq_getElem hi]
  rw [fieldX, h, toFin_regBits]

@[simp] theorem fieldNN_packRegImm (op : BitVec 4) (x : RegIdx) (nn : Byte) : fieldNN (packRegImm op x nn) = nn := by
  ext i hi
  simp [fieldNN, getLsbD_packRegImm, hi]

/-! ### Formats FR and FD -/

@[simp] theorem groupOf_packRegReg (op : BitVec 4) (x y : RegIdx) (n : Nibble) :
    groupOf (packRegReg op x y n) = op := by
  ext i hi
  have h1 : ¬ 12 + i < 4 := by omega
  have h2 : ¬ 12 + i < 8 := by omega
  simp [groupOf, getLsbD_packRegReg, h1, h2, BitVec.getLsbD_eq_getElem hi]

@[simp] theorem fieldX_packRegReg (op : BitVec 4) (x y : RegIdx) (n : Nibble) : fieldX (packRegReg op x y n) = x := by
  have h : (packRegReg op x y n).extractLsb' 8 4 = regBits x := by
    ext i hi
    have h1 : ¬ 8 + i < 4 := by omega
    have h2 : ¬ 8 + i < 8 := by omega
    have h3 : 8 + i < 12 := by omega
    simp [getLsbD_packRegReg, h1, h3, BitVec.getLsbD_eq_getElem hi]
  rw [fieldX, h, toFin_regBits]

@[simp] theorem fieldY_packRegReg (op : BitVec 4) (x y : RegIdx) (n : Nibble) : fieldY (packRegReg op x y n) = y := by
  have h : (packRegReg op x y n).extractLsb' 4 4 = regBits y := by
    ext i hi
    have h1 : ¬ 4 + i < 4 := by omega
    have h2 : 4 + i < 8 := by omega
    simp [getLsbD_packRegReg, h2, BitVec.getLsbD_eq_getElem hi]
  rw [fieldY, h, toFin_regBits]

@[simp] theorem fieldN_packRegReg (op : BitVec 4) (x y : RegIdx) (n : Nibble) : fieldN (packRegReg op x y n) = n := by
  ext i hi
  simp [fieldN, getLsbD_packRegReg, hi]

/-- A word is the concatenation of its two bytes, so that storing and fetching it gives it back (R66, R90). -/
theorem wordOfBytes_bytesOfWord (w : Word) : wordOfBytes (highByte w) (lowByte w) = w := by
  have h : ∀ i, (wordOfBytes (highByte w) (lowByte w)).getLsbD i = w.getLsbD i := by
    intro i
    have e := BitVec.getLsbD_append (x := highByte w) (y := lowByte w) (i := i)
    rw [show (wordOfBytes (highByte w) (lowByte w)).getLsbD i = (highByte w ++ lowByte w).getLsbD i from rfl, e]
    by_cases h1 : i < 8
    · simp [h1, lowByte]
    · have h2 : 8 + (i - 8) = i := by omega
      by_cases h3 : i - 8 < 8
      · simp [h1, highByte, h2, h3]
      · have : w.getLsbD i = false := BitVec.getLsbD_of_ge w i (by omega)
        simp [h1, highByte, h3, this]
  exact BitVec.eq_of_getLsbD_eq fun i _ => h i

end Sys2Proof
end

