-- ==== Sys2Proof/Laws/State.lean ====
section
/-! SUPPORT. One lemma per field and per update of the state, each true by rfl, so that no later proof unfolds an
update; and the same for the four reads (register, byte, cell, key). -/

namespace Sys2Proof.Machine

/-! ### setReg -/

@[simp] theorem State.setReg_V (s : State) (x : RegIdx) (v : Byte) : (s.setReg x v).V = s.V.set x v := rfl
@[simp] theorem State.setReg_pc (s : State) (x : RegIdx) (v : Byte) : (s.setReg x v).pc = s.pc := rfl
@[simp] theorem State.setReg_I (s : State) (x : RegIdx) (v : Byte) : (s.setReg x v).I = s.I := rfl
@[simp] theorem State.setReg_stack (s : State) (x : RegIdx) (v : Byte) : (s.setReg x v).stack = s.stack := rfl
@[simp] theorem State.setReg_sp (s : State) (x : RegIdx) (v : Byte) : (s.setReg x v).sp = s.sp := rfl
@[simp] theorem State.setReg_DT (s : State) (x : RegIdx) (v : Byte) : (s.setReg x v).DT = s.DT := rfl
@[simp] theorem State.setReg_ST (s : State) (x : RegIdx) (v : Byte) : (s.setReg x v).ST = s.ST := rfl
@[simp] theorem State.setReg_mem (s : State) (x : RegIdx) (v : Byte) : (s.setReg x v).mem = s.mem := rfl
@[simp] theorem State.setReg_fb (s : State) (x : RegIdx) (v : Byte) : (s.setReg x v).fb = s.fb := rfl
@[simp] theorem State.setReg_redrawPending (s : State) (x : RegIdx) (v : Byte) : (s.setReg x v).redrawPending = s.redrawPending := rfl
@[simp] theorem State.setReg_keys (s : State) (x : RegIdx) (v : Byte) : (s.setReg x v).keys = s.keys := rfl
@[simp] theorem State.setReg_status (s : State) (x : RegIdx) (v : Byte) : (s.setReg x v).status = s.status := rfl
@[simp] theorem State.setReg_agenda (s : State) (x : RegIdx) (v : Byte) : (s.setReg x v).agenda = s.agenda := rfl
@[simp] theorem State.setReg_loadReport (s : State) (x : RegIdx) (v : Byte) : (s.setReg x v).loadReport = s.loadReport := rfl
@[simp] theorem State.setReg_draws (s : State) (x : RegIdx) (v : Byte) : (s.setReg x v).draws = s.draws := rfl
@[simp] theorem State.setReg_loads (s : State) (x : RegIdx) (v : Byte) : (s.setReg x v).loads = s.loads := rfl
@[simp] theorem State.setReg_memByte (s : State) (x : RegIdx) (v : Byte) (m : Nat) : (s.setReg x v).memByte m = s.memByte m := rfl
@[simp] theorem State.setReg_cell (s : State) (x : RegIdx) (v : Byte) (i : Fin 32) (j : Fin 64) : (s.setReg x v).cell i j = s.cell i j := rfl
@[simp] theorem State.setReg_key (s : State) (x : RegIdx) (v : Byte) (q : Fin 16) : (s.setReg x v).key q = s.key q := rfl

/-! ### setFlag -/

@[simp] theorem State.setFlag_V (s : State) (b : Bool) : (s.setFlag b).V = s.V.set (15 : RegIdx) (flagByte b) := rfl
@[simp] theorem State.setFlag_pc (s : State) (b : Bool) : (s.setFlag b).pc = s.pc := rfl
@[simp] theorem State.setFlag_I (s : State) (b : Bool) : (s.setFlag b).I = s.I := rfl
@[simp] theorem State.setFlag_stack (s : State) (b : Bool) : (s.setFlag b).stack = s.stack := rfl
@[simp] theorem State.setFlag_sp (s : State) (b : Bool) : (s.setFlag b).sp = s.sp := rfl
@[simp] theorem State.setFlag_DT (s : State) (b : Bool) : (s.setFlag b).DT = s.DT := rfl
@[simp] theorem State.setFlag_ST (s : State) (b : Bool) : (s.setFlag b).ST = s.ST := rfl
@[simp] theorem State.setFlag_mem (s : State) (b : Bool) : (s.setFlag b).mem = s.mem := rfl
@[simp] theorem State.setFlag_fb (s : State) (b : Bool) : (s.setFlag b).fb = s.fb := rfl
@[simp] theorem State.setFlag_redrawPending (s : State) (b : Bool) : (s.setFlag b).redrawPending = s.redrawPending := rfl
@[simp] theorem State.setFlag_keys (s : State) (b : Bool) : (s.setFlag b).keys = s.keys := rfl
@[simp] theorem State.setFlag_status (s : State) (b : Bool) : (s.setFlag b).status = s.status := rfl
@[simp] theorem State.setFlag_agenda (s : State) (b : Bool) : (s.setFlag b).agenda = s.agenda := rfl
@[simp] theorem State.setFlag_loadReport (s : State) (b : Bool) : (s.setFlag b).loadReport = s.loadReport := rfl
@[simp] theorem State.setFlag_draws (s : State) (b : Bool) : (s.setFlag b).draws = s.draws := rfl
@[simp] theorem State.setFlag_loads (s : State) (b : Bool) : (s.setFlag b).loads = s.loads := rfl
@[simp] theorem State.setFlag_memByte (s : State) (b : Bool) (m : Nat) : (s.setFlag b).memByte m = s.memByte m := rfl
@[simp] theorem State.setFlag_cell (s : State) (b : Bool) (i : Fin 32) (j : Fin 64) : (s.setFlag b).cell i j = s.cell i j := rfl
@[simp] theorem State.setFlag_key (s : State) (b : Bool) (q : Fin 16) : (s.setFlag b).key q = s.key q := rfl

/-! ### setPc -/

@[simp] theorem State.setPc_V (s : State) (v : Word) : (s.setPc v).V = s.V := rfl
@[simp] theorem State.setPc_pc (s : State) (v : Word) : (s.setPc v).pc = v := rfl
@[simp] theorem State.setPc_I (s : State) (v : Word) : (s.setPc v).I = s.I := rfl
@[simp] theorem State.setPc_stack (s : State) (v : Word) : (s.setPc v).stack = s.stack := rfl
@[simp] theorem State.setPc_sp (s : State) (v : Word) : (s.setPc v).sp = s.sp := rfl
@[simp] theorem State.setPc_DT (s : State) (v : Word) : (s.setPc v).DT = s.DT := rfl
@[simp] theorem State.setPc_ST (s : State) (v : Word) : (s.setPc v).ST = s.ST := rfl
@[simp] theorem State.setPc_mem (s : State) (v : Word) : (s.setPc v).mem = s.mem := rfl
@[simp] theorem State.setPc_fb (s : State) (v : Word) : (s.setPc v).fb = s.fb := rfl
@[simp] theorem State.setPc_redrawPending (s : State) (v : Word) : (s.setPc v).redrawPending = s.redrawPending := rfl
@[simp] theorem State.setPc_keys (s : State) (v : Word) : (s.setPc v).keys = s.keys := rfl
@[simp] theorem State.setPc_status (s : State) (v : Word) : (s.setPc v).status = s.status := rfl
@[simp] theorem State.setPc_agenda (s : State) (v : Word) : (s.setPc v).agenda = s.agenda := rfl
@[simp] theorem State.setPc_loadReport (s : State) (v : Word) : (s.setPc v).loadReport = s.loadReport := rfl
@[simp] theorem State.setPc_draws (s : State) (v : Word) : (s.setPc v).draws = s.draws := rfl
@[simp] theorem State.setPc_loads (s : State) (v : Word) : (s.setPc v).loads = s.loads := rfl
@[simp] theorem State.setPc_reg (s : State) (v : Word) (z : RegIdx) : (s.setPc v).reg z = s.reg z := rfl
@[simp] theorem State.setPc_memByte (s : State) (v : Word) (m : Nat) : (s.setPc v).memByte m = s.memByte m := rfl
@[simp] theorem State.setPc_cell (s : State) (v : Word) (i : Fin 32) (j : Fin 64) : (s.setPc v).cell i j = s.cell i j := rfl
@[simp] theorem State.setPc_key (s : State) (v : Word) (q : Fin 16) : (s.setPc v).key q = s.key q := rfl

/-! ### advance -/

@[simp] theorem State.advance_V (s : State) : (s.advance).V = s.V := rfl
@[simp] theorem State.advance_pc (s : State) : (s.advance).pc = s.pc + 2 := rfl
@[simp] theorem State.advance_I (s : State) : (s.advance).I = s.I := rfl
@[simp] theorem State.advance_stack (s : State) : (s.advance).stack = s.stack := rfl
@[simp] theorem State.advance_sp (s : State) : (s.advance).sp = s.sp := rfl
@[simp] theorem State.advance_DT (s : State) : (s.advance).DT = s.DT := rfl
@[simp] theorem State.advance_ST (s : State) : (s.advance).ST = s.ST := rfl
@[simp] theorem State.advance_mem (s : State) : (s.advance).mem = s.mem := rfl
@[simp] theorem State.advance_fb (s : State) : (s.advance).fb = s.fb := rfl
@[simp] theorem State.advance_redrawPending (s : State) : (s.advance).redrawPending = s.redrawPending := rfl
@[simp] theorem State.advance_keys (s : State) : (s.advance).keys = s.keys := rfl
@[simp] theorem State.advance_status (s : State) : (s.advance).status = s.status := rfl
@[simp] theorem State.advance_agenda (s : State) : (s.advance).agenda = s.agenda := rfl
@[simp] theorem State.advance_loadReport (s : State) : (s.advance).loadReport = s.loadReport := rfl
@[simp] theorem State.advance_draws (s : State) : (s.advance).draws = s.draws := rfl
@[simp] theorem State.advance_loads (s : State) : (s.advance).loads = s.loads := rfl
@[simp] theorem State.advance_reg (s : State) (z : RegIdx) : (s.advance).reg z = s.reg z := rfl
@[simp] theorem State.advance_memByte (s : State) (m : Nat) : (s.advance).memByte m = s.memByte m := rfl
@[simp] theorem State.advance_cell (s : State) (i : Fin 32) (j : Fin 64) : (s.advance).cell i j = s.cell i j := rfl
@[simp] theorem State.advance_key (s : State) (q : Fin 16) : (s.advance).key q = s.key q := rfl

/-! ### skipIf -/

@[simp] theorem State.skipIf_V (s : State) (c : Bool) : (s.skipIf c).V = s.V := rfl
@[simp] theorem State.skipIf_pc (s : State) (c : Bool) : (s.skipIf c).pc = if c then s.pc + 4 else s.pc + 2 := rfl
@[simp] theorem State.skipIf_I (s : State) (c : Bool) : (s.skipIf c).I = s.I := rfl
@[simp] theorem State.skipIf_stack (s : State) (c : Bool) : (s.skipIf c).stack = s.stack := rfl
@[simp] theorem State.skipIf_sp (s : State) (c : Bool) : (s.skipIf c).sp = s.sp := rfl
@[simp] theorem State.skipIf_DT (s : State) (c : Bool) : (s.skipIf c).DT = s.DT := rfl
@[simp] theorem State.skipIf_ST (s : State) (c : Bool) : (s.skipIf c).ST = s.ST := rfl
@[simp] theorem State.skipIf_mem (s : State) (c : Bool) : (s.skipIf c).mem = s.mem := rfl
@[simp] theorem State.skipIf_fb (s : State) (c : Bool) : (s.skipIf c).fb = s.fb := rfl
@[simp] theorem State.skipIf_redrawPending (s : State) (c : Bool) : (s.skipIf c).redrawPending = s.redrawPending := rfl
@[simp] theorem State.skipIf_keys (s : State) (c : Bool) : (s.skipIf c).keys = s.keys := rfl
@[simp] theorem State.skipIf_status (s : State) (c : Bool) : (s.skipIf c).status = s.status := rfl
@[simp] theorem State.skipIf_agenda (s : State) (c : Bool) : (s.skipIf c).agenda = s.agenda := rfl
@[simp] theorem State.skipIf_loadReport (s : State) (c : Bool) : (s.skipIf c).loadReport = s.loadReport := rfl
@[simp] theorem State.skipIf_draws (s : State) (c : Bool) : (s.skipIf c).draws = s.draws := rfl
@[simp] theorem State.skipIf_loads (s : State) (c : Bool) : (s.skipIf c).loads = s.loads := rfl
@[simp] theorem State.skipIf_reg (s : State) (c : Bool) (z : RegIdx) : (s.skipIf c).reg z = s.reg z := rfl
@[simp] theorem State.skipIf_memByte (s : State) (c : Bool) (m : Nat) : (s.skipIf c).memByte m = s.memByte m := rfl
@[simp] theorem State.skipIf_cell (s : State) (c : Bool) (i : Fin 32) (j : Fin 64) : (s.skipIf c).cell i j = s.cell i j := rfl
@[simp] theorem State.skipIf_key (s : State) (c : Bool) (q : Fin 16) : (s.skipIf c).key q = s.key q := rfl

/-! ### setI -/

@[simp] theorem State.setI_V (s : State) (v : Word) : (s.setI v).V = s.V := rfl
@[simp] theorem State.setI_pc (s : State) (v : Word) : (s.setI v).pc = s.pc := rfl
@[simp] theorem State.setI_I (s : State) (v : Word) : (s.setI v).I = v := rfl
@[simp] theorem State.setI_stack (s : State) (v : Word) : (s.setI v).stack = s.stack := rfl
@[simp] theorem State.setI_sp (s : State) (v : Word) : (s.setI v).sp = s.sp := rfl
@[simp] theorem State.setI_DT (s : State) (v : Word) : (s.setI v).DT = s.DT := rfl
@[simp] theorem State.setI_ST (s : State) (v : Word) : (s.setI v).ST = s.ST := rfl
@[simp] theorem State.setI_mem (s : State) (v : Word) : (s.setI v).mem = s.mem := rfl
@[simp] theorem State.setI_fb (s : State) (v : Word) : (s.setI v).fb = s.fb := rfl
@[simp] theorem State.setI_redrawPending (s : State) (v : Word) : (s.setI v).redrawPending = s.redrawPending := rfl
@[simp] theorem State.setI_keys (s : State) (v : Word) : (s.setI v).keys = s.keys := rfl
@[simp] theorem State.setI_status (s : State) (v : Word) : (s.setI v).status = s.status := rfl
@[simp] theorem State.setI_agenda (s : State) (v : Word) : (s.setI v).agenda = s.agenda := rfl
@[simp] theorem State.setI_loadReport (s : State) (v : Word) : (s.setI v).loadReport = s.loadReport := rfl
@[simp] theorem State.setI_draws (s : State) (v : Word) : (s.setI v).draws = s.draws := rfl
@[simp] theorem State.setI_loads (s : State) (v : Word) : (s.setI v).loads = s.loads := rfl
@[simp] theorem State.setI_reg (s : State) (v : Word) (z : RegIdx) : (s.setI v).reg z = s.reg z := rfl
@[simp] theorem State.setI_memByte (s : State) (v : Word) (m : Nat) : (s.setI v).memByte m = s.memByte m := rfl
@[simp] theorem State.setI_cell (s : State) (v : Word) (i : Fin 32) (j : Fin 64) : (s.setI v).cell i j = s.cell i j := rfl
@[simp] theorem State.setI_key (s : State) (v : Word) (q : Fin 16) : (s.setI v).key q = s.key q := rfl

/-! ### setDT -/

@[simp] theorem State.setDT_V (s : State) (v : Byte) : (s.setDT v).V = s.V := rfl
@[simp] theorem State.setDT_pc (s : State) (v : Byte) : (s.setDT v).pc = s.pc := rfl
@[simp] theorem State.setDT_I (s : State) (v : Byte) : (s.setDT v).I = s.I := rfl
@[simp] theorem State.setDT_stack (s : State) (v : Byte) : (s.setDT v).stack = s.stack := rfl
@[simp] theorem State.setDT_sp (s : State) (v : Byte) : (s.setDT v).sp = s.sp := rfl
@[simp] theorem State.setDT_DT (s : State) (v : Byte) : (s.setDT v).DT = v := rfl
@[simp] theorem State.setDT_ST (s : State) (v : Byte) : (s.setDT v).ST = s.ST := rfl
@[simp] theorem State.setDT_mem (s : State) (v : Byte) : (s.setDT v).mem = s.mem := rfl
@[simp] theorem State.setDT_fb (s : State) (v : Byte) : (s.setDT v).fb = s.fb := rfl
@[simp] theorem State.setDT_redrawPending (s : State) (v : Byte) : (s.setDT v).redrawPending = s.redrawPending := rfl
@[simp] theorem State.setDT_keys (s : State) (v : Byte) : (s.setDT v).keys = s.keys := rfl
@[simp] theorem State.setDT_status (s : State) (v : Byte) : (s.setDT v).status = s.status := rfl
@[simp] theorem State.setDT_agenda (s : State) (v : Byte) : (s.setDT v).agenda = s.agenda := rfl
@[simp] theorem State.setDT_loadReport (s : State) (v : Byte) : (s.setDT v).loadReport = s.loadReport := rfl
@[simp] theorem State.setDT_draws (s : State) (v : Byte) : (s.setDT v).draws = s.draws := rfl
@[simp] theorem State.setDT_loads (s : State) (v : Byte) : (s.setDT v).loads = s.loads := rfl
@[simp] theorem State.setDT_reg (s : State) (v : Byte) (z : RegIdx) : (s.setDT v).reg z = s.reg z := rfl
@[simp] theorem State.setDT_memByte (s : State) (v : Byte) (m : Nat) : (s.setDT v).memByte m = s.memByte m := rfl
@[simp] theorem State.setDT_cell (s : State) (v : Byte) (i : Fin 32) (j : Fin 64) : (s.setDT v).cell i j = s.cell i j := rfl
@[simp] theorem State.setDT_key (s : State) (v : Byte) (q : Fin 16) : (s.setDT v).key q = s.key q := rfl

/-! ### setST -/

@[simp] theorem State.setST_V (s : State) (v : Byte) : (s.setST v).V = s.V := rfl
@[simp] theorem State.setST_pc (s : State) (v : Byte) : (s.setST v).pc = s.pc := rfl
@[simp] theorem State.setST_I (s : State) (v : Byte) : (s.setST v).I = s.I := rfl
@[simp] theorem State.setST_stack (s : State) (v : Byte) : (s.setST v).stack = s.stack := rfl
@[simp] theorem State.setST_sp (s : State) (v : Byte) : (s.setST v).sp = s.sp := rfl
@[simp] theorem State.setST_DT (s : State) (v : Byte) : (s.setST v).DT = s.DT := rfl
@[simp] theorem State.setST_ST (s : State) (v : Byte) : (s.setST v).ST = v := rfl
@[simp] theorem State.setST_mem (s : State) (v : Byte) : (s.setST v).mem = s.mem := rfl
@[simp] theorem State.setST_fb (s : State) (v : Byte) : (s.setST v).fb = s.fb := rfl
@[simp] theorem State.setST_redrawPending (s : State) (v : Byte) : (s.setST v).redrawPending = s.redrawPending := rfl
@[simp] theorem State.setST_keys (s : State) (v : Byte) : (s.setST v).keys = s.keys := rfl
@[simp] theorem State.setST_status (s : State) (v : Byte) : (s.setST v).status = s.status := rfl
@[simp] theorem State.setST_agenda (s : State) (v : Byte) : (s.setST v).agenda = s.agenda := rfl
@[simp] theorem State.setST_loadReport (s : State) (v : Byte) : (s.setST v).loadReport = s.loadReport := rfl
@[simp] theorem State.setST_draws (s : State) (v : Byte) : (s.setST v).draws = s.draws := rfl
@[simp] theorem State.setST_loads (s : State) (v : Byte) : (s.setST v).loads = s.loads := rfl
@[simp] theorem State.setST_reg (s : State) (v : Byte) (z : RegIdx) : (s.setST v).reg z = s.reg z := rfl
@[simp] theorem State.setST_memByte (s : State) (v : Byte) (m : Nat) : (s.setST v).memByte m = s.memByte m := rfl
@[simp] theorem State.setST_cell (s : State) (v : Byte) (i : Fin 32) (j : Fin 64) : (s.setST v).cell i j = s.cell i j := rfl
@[simp] theorem State.setST_key (s : State) (v : Byte) (q : Fin 16) : (s.setST v).key q = s.key q := rfl

/-! ### setRedraw -/

@[simp] theorem State.setRedraw_V (s : State) (b : Bool) : (s.setRedraw b).V = s.V := rfl
@[simp] theorem State.setRedraw_pc (s : State) (b : Bool) : (s.setRedraw b).pc = s.pc := rfl
@[simp] theorem State.setRedraw_I (s : State) (b : Bool) : (s.setRedraw b).I = s.I := rfl
@[simp] theorem State.setRedraw_stack (s : State) (b : Bool) : (s.setRedraw b).stack = s.stack := rfl
@[simp] theorem State.setRedraw_sp (s : State) (b : Bool) : (s.setRedraw b).sp = s.sp := rfl
@[simp] theorem State.setRedraw_DT (s : State) (b : Bool) : (s.setRedraw b).DT = s.DT := rfl
@[simp] theorem State.setRedraw_ST (s : State) (b : Bool) : (s.setRedraw b).ST = s.ST := rfl
@[simp] theorem State.setRedraw_mem (s : State) (b : Bool) : (s.setRedraw b).mem = s.mem := rfl
@[simp] theorem State.setRedraw_fb (s : State) (b : Bool) : (s.setRedraw b).fb = s.fb := rfl
@[simp] theorem State.setRedraw_redrawPending (s : State) (b : Bool) : (s.setRedraw b).redrawPending = b := rfl
@[simp] theorem State.setRedraw_keys (s : State) (b : Bool) : (s.setRedraw b).keys = s.keys := rfl
@[simp] theorem State.setRedraw_status (s : State) (b : Bool) : (s.setRedraw b).status = s.status := rfl
@[simp] theorem State.setRedraw_agenda (s : State) (b : Bool) : (s.setRedraw b).agenda = s.agenda := rfl
@[simp] theorem State.setRedraw_loadReport (s : State) (b : Bool) : (s.setRedraw b).loadReport = s.loadReport := rfl
@[simp] theorem State.setRedraw_draws (s : State) (b : Bool) : (s.setRedraw b).draws = s.draws := rfl
@[simp] theorem State.setRedraw_loads (s : State) (b : Bool) : (s.setRedraw b).loads = s.loads := rfl
@[simp] theorem State.setRedraw_reg (s : State) (b : Bool) (z : RegIdx) : (s.setRedraw b).reg z = s.reg z := rfl
@[simp] theorem State.setRedraw_memByte (s : State) (b : Bool) (m : Nat) : (s.setRedraw b).memByte m = s.memByte m := rfl
@[simp] theorem State.setRedraw_cell (s : State) (b : Bool) (i : Fin 32) (j : Fin 64) : (s.setRedraw b).cell i j = s.cell i j := rfl
@[simp] theorem State.setRedraw_key (s : State) (b : Bool) (q : Fin 16) : (s.setRedraw b).key q = s.key q := rfl

/-! ### setKeys -/

@[simp] theorem State.setKeys_V (s : State) (k : Vector Bool 16) : (s.setKeys k).V = s.V := rfl
@[simp] theorem State.setKeys_pc (s : State) (k : Vector Bool 16) : (s.setKeys k).pc = s.pc := rfl
@[simp] theorem State.setKeys_I (s : State) (k : Vector Bool 16) : (s.setKeys k).I = s.I := rfl
@[simp] theorem State.setKeys_stack (s : State) (k : Vector Bool 16) : (s.setKeys k).stack = s.stack := rfl
@[simp] theorem State.setKeys_sp (s : State) (k : Vector Bool 16) : (s.setKeys k).sp = s.sp := rfl
@[simp] theorem State.setKeys_DT (s : State) (k : Vector Bool 16) : (s.setKeys k).DT = s.DT := rfl
@[simp] theorem State.setKeys_ST (s : State) (k : Vector Bool 16) : (s.setKeys k).ST = s.ST := rfl
@[simp] theorem State.setKeys_mem (s : State) (k : Vector Bool 16) : (s.setKeys k).mem = s.mem := rfl
@[simp] theorem State.setKeys_fb (s : State) (k : Vector Bool 16) : (s.setKeys k).fb = s.fb := rfl
@[simp] theorem State.setKeys_redrawPending (s : State) (k : Vector Bool 16) : (s.setKeys k).redrawPending = s.redrawPending := rfl
@[simp] theorem State.setKeys_keys (s : State) (k : Vector Bool 16) : (s.setKeys k).keys = k := rfl
@[simp] theorem State.setKeys_status (s : State) (k : Vector Bool 16) : (s.setKeys k).status = s.status := rfl
@[simp] theorem State.setKeys_agenda (s : State) (k : Vector Bool 16) : (s.setKeys k).agenda = s.agenda := rfl
@[simp] theorem State.setKeys_loadReport (s : State) (k : Vector Bool 16) : (s.setKeys k).loadReport = s.loadReport := rfl
@[simp] theorem State.setKeys_draws (s : State) (k : Vector Bool 16) : (s.setKeys k).draws = s.draws := rfl
@[simp] theorem State.setKeys_loads (s : State) (k : Vector Bool 16) : (s.setKeys k).loads = s.loads := rfl
@[simp] theorem State.setKeys_reg (s : State) (k : Vector Bool 16) (z : RegIdx) : (s.setKeys k).reg z = s.reg z := rfl
@[simp] theorem State.setKeys_memByte (s : State) (k : Vector Bool 16) (m : Nat) : (s.setKeys k).memByte m = s.memByte m := rfl
@[simp] theorem State.setKeys_cell (s : State) (k : Vector Bool 16) (i : Fin 32) (j : Fin 64) : (s.setKeys k).cell i j = s.cell i j := rfl

/-! ### setStatus -/

@[simp] theorem State.setStatus_V (s : State) (v : Status) : (s.setStatus v).V = s.V := rfl
@[simp] theorem State.setStatus_pc (s : State) (v : Status) : (s.setStatus v).pc = s.pc := rfl
@[simp] theorem State.setStatus_I (s : State) (v : Status) : (s.setStatus v).I = s.I := rfl
@[simp] theorem State.setStatus_stack (s : State) (v : Status) : (s.setStatus v).stack = s.stack := rfl
@[simp] theorem State.setStatus_sp (s : State) (v : Status) : (s.setStatus v).sp = s.sp := rfl
@[simp] theorem State.setStatus_DT (s : State) (v : Status) : (s.setStatus v).DT = s.DT := rfl
@[simp] theorem State.setStatus_ST (s : State) (v : Status) : (s.setStatus v).ST = s.ST := rfl
@[simp] theorem State.setStatus_mem (s : State) (v : Status) : (s.setStatus v).mem = s.mem := rfl
@[simp] theorem State.setStatus_fb (s : State) (v : Status) : (s.setStatus v).fb = s.fb := rfl
@[simp] theorem State.setStatus_redrawPending (s : State) (v : Status) : (s.setStatus v).redrawPending = s.redrawPending := rfl
@[simp] theorem State.setStatus_keys (s : State) (v : Status) : (s.setStatus v).keys = s.keys := rfl
@[simp] theorem State.setStatus_status (s : State) (v : Status) : (s.setStatus v).status = v := rfl
@[simp] theorem State.setStatus_agenda (s : State) (v : Status) : (s.setStatus v).agenda = s.agenda := rfl
@[simp] theorem State.setStatus_loadReport (s : State) (v : Status) : (s.setStatus v).loadReport = s.loadReport := rfl
@[simp] theorem State.setStatus_draws (s : State) (v : Status) : (s.setStatus v).draws = s.draws := rfl
@[simp] theorem State.setStatus_loads (s : State) (v : Status) : (s.setStatus v).loads = s.loads := rfl
@[simp] theorem State.setStatus_reg (s : State) (v : Status) (z : RegIdx) : (s.setStatus v).reg z = s.reg z := rfl
@[simp] theorem State.setStatus_memByte (s : State) (v : Status) (m : Nat) : (s.setStatus v).memByte m = s.memByte m := rfl
@[simp] theorem State.setStatus_cell (s : State) (v : Status) (i : Fin 32) (j : Fin 64) : (s.setStatus v).cell i j = s.cell i j := rfl
@[simp] theorem State.setStatus_key (s : State) (v : Status) (q : Fin 16) : (s.setStatus v).key q = s.key q := rfl

/-! ### setAgenda -/

@[simp] theorem State.setAgenda_V (s : State) (es : List Event) : (s.setAgenda es).V = s.V := rfl
@[simp] theorem State.setAgenda_pc (s : State) (es : List Event) : (s.setAgenda es).pc = s.pc := rfl
@[simp] theorem State.setAgenda_I (s : State) (es : List Event) : (s.setAgenda es).I = s.I := rfl
@[simp] theorem State.setAgenda_stack (s : State) (es : List Event) : (s.setAgenda es).stack = s.stack := rfl
@[simp] theorem State.setAgenda_sp (s : State) (es : List Event) : (s.setAgenda es).sp = s.sp := rfl
@[simp] theorem State.setAgenda_DT (s : State) (es : List Event) : (s.setAgenda es).DT = s.DT := rfl
@[simp] theorem State.setAgenda_ST (s : State) (es : List Event) : (s.setAgenda es).ST = s.ST := rfl
@[simp] theorem State.setAgenda_mem (s : State) (es : List Event) : (s.setAgenda es).mem = s.mem := rfl
@[simp] theorem State.setAgenda_fb (s : State) (es : List Event) : (s.setAgenda es).fb = s.fb := rfl
@[simp] theorem State.setAgenda_redrawPending (s : State) (es : List Event) : (s.setAgenda es).redrawPending = s.redrawPending := rfl
@[simp] theorem State.setAgenda_keys (s : State) (es : List Event) : (s.setAgenda es).keys = s.keys := rfl
@[simp] theorem State.setAgenda_status (s : State) (es : List Event) : (s.setAgenda es).status = s.status := rfl
@[simp] theorem State.setAgenda_agenda (s : State) (es : List Event) : (s.setAgenda es).agenda = es := rfl
@[simp] theorem State.setAgenda_loadReport (s : State) (es : List Event) : (s.setAgenda es).loadReport = s.loadReport := rfl
@[simp] theorem State.setAgenda_draws (s : State) (es : List Event) : (s.setAgenda es).draws = s.draws := rfl
@[simp] theorem State.setAgenda_loads (s : State) (es : List Event) : (s.setAgenda es).loads = s.loads := rfl
@[simp] theorem State.setAgenda_reg (s : State) (es : List Event) (z : RegIdx) : (s.setAgenda es).reg z = s.reg z := rfl
@[simp] theorem State.setAgenda_memByte (s : State) (es : List Event) (m : Nat) : (s.setAgenda es).memByte m = s.memByte m := rfl
@[simp] theorem State.setAgenda_cell (s : State) (es : List Event) (i : Fin 32) (j : Fin 64) : (s.setAgenda es).cell i j = s.cell i j := rfl
@[simp] theorem State.setAgenda_key (s : State) (es : List Event) (q : Fin 16) : (s.setAgenda es).key q = s.key q := rfl

/-! ### setMemByte -/

@[simp] theorem State.setMemByte_V (s : State) (a : Nat) (v : Byte) : (s.setMemByte a v).V = s.V := rfl
@[simp] theorem State.setMemByte_pc (s : State) (a : Nat) (v : Byte) : (s.setMemByte a v).pc = s.pc := rfl
@[simp] theorem State.setMemByte_I (s : State) (a : Nat) (v : Byte) : (s.setMemByte a v).I = s.I := rfl
@[simp] theorem State.setMemByte_stack (s : State) (a : Nat) (v : Byte) : (s.setMemByte a v).stack = s.stack := rfl
@[simp] theorem State.setMemByte_sp (s : State) (a : Nat) (v : Byte) : (s.setMemByte a v).sp = s.sp := rfl
@[simp] theorem State.setMemByte_DT (s : State) (a : Nat) (v : Byte) : (s.setMemByte a v).DT = s.DT := rfl
@[simp] theorem State.setMemByte_ST (s : State) (a : Nat) (v : Byte) : (s.setMemByte a v).ST = s.ST := rfl
@[simp] theorem State.setMemByte_mem (s : State) (a : Nat) (v : Byte) : (s.setMemByte a v).mem = s.mem.write a v := rfl
@[simp] theorem State.setMemByte_fb (s : State) (a : Nat) (v : Byte) : (s.setMemByte a v).fb = s.fb := rfl
@[simp] theorem State.setMemByte_redrawPending (s : State) (a : Nat) (v : Byte) : (s.setMemByte a v).redrawPending = s.redrawPending := rfl
@[simp] theorem State.setMemByte_keys (s : State) (a : Nat) (v : Byte) : (s.setMemByte a v).keys = s.keys := rfl
@[simp] theorem State.setMemByte_status (s : State) (a : Nat) (v : Byte) : (s.setMemByte a v).status = s.status := rfl
@[simp] theorem State.setMemByte_agenda (s : State) (a : Nat) (v : Byte) : (s.setMemByte a v).agenda = s.agenda := rfl
@[simp] theorem State.setMemByte_loadReport (s : State) (a : Nat) (v : Byte) : (s.setMemByte a v).loadReport = s.loadReport := rfl
@[simp] theorem State.setMemByte_draws (s : State) (a : Nat) (v : Byte) : (s.setMemByte a v).draws = s.draws := rfl
@[simp] theorem State.setMemByte_loads (s : State) (a : Nat) (v : Byte) : (s.setMemByte a v).loads = s.loads := rfl
@[simp] theorem State.setMemByte_reg (s : State) (a : Nat) (v : Byte) (z : RegIdx) : (s.setMemByte a v).reg z = s.reg z := rfl
@[simp] theorem State.setMemByte_cell (s : State) (a : Nat) (v : Byte) (i : Fin 32) (j : Fin 64) : (s.setMemByte a v).cell i j = s.cell i j := rfl
@[simp] theorem State.setMemByte_key (s : State) (a : Nat) (v : Byte) (q : Fin 16) : (s.setMemByte a v).key q = s.key q := rfl

/-! ### push -/

@[simp] theorem State.push_V (s : State) (v : Word) (h : s.sp.val < 16) : (s.push v h).V = s.V := rfl
@[simp] theorem State.push_pc (s : State) (v : Word) (h : s.sp.val < 16) : (s.push v h).pc = s.pc := rfl
@[simp] theorem State.push_I (s : State) (v : Word) (h : s.sp.val < 16) : (s.push v h).I = s.I := rfl
@[simp] theorem State.push_stack (s : State) (v : Word) (h : s.sp.val < 16) : (s.push v h).stack = s.stack.set s.sp.val v := rfl
@[simp] theorem State.push_sp (s : State) (v : Word) (h : s.sp.val < 16) : (s.push v h).sp = ⟨s.sp.val + 1, by omega⟩ := rfl
@[simp] theorem State.push_DT (s : State) (v : Word) (h : s.sp.val < 16) : (s.push v h).DT = s.DT := rfl
@[simp] theorem State.push_ST (s : State) (v : Word) (h : s.sp.val < 16) : (s.push v h).ST = s.ST := rfl
@[simp] theorem State.push_mem (s : State) (v : Word) (h : s.sp.val < 16) : (s.push v h).mem = s.mem := rfl
@[simp] theorem State.push_fb (s : State) (v : Word) (h : s.sp.val < 16) : (s.push v h).fb = s.fb := rfl
@[simp] theorem State.push_redrawPending (s : State) (v : Word) (h : s.sp.val < 16) : (s.push v h).redrawPending = s.redrawPending := rfl
@[simp] theorem State.push_keys (s : State) (v : Word) (h : s.sp.val < 16) : (s.push v h).keys = s.keys := rfl
@[simp] theorem State.push_status (s : State) (v : Word) (h : s.sp.val < 16) : (s.push v h).status = s.status := rfl
@[simp] theorem State.push_agenda (s : State) (v : Word) (h : s.sp.val < 16) : (s.push v h).agenda = s.agenda := rfl
@[simp] theorem State.push_loadReport (s : State) (v : Word) (h : s.sp.val < 16) : (s.push v h).loadReport = s.loadReport := rfl
@[simp] theorem State.push_draws (s : State) (v : Word) (h : s.sp.val < 16) : (s.push v h).draws = s.draws := rfl
@[simp] theorem State.push_loads (s : State) (v : Word) (h : s.sp.val < 16) : (s.push v h).loads = s.loads := rfl
@[simp] theorem State.push_reg (s : State) (v : Word) (h : s.sp.val < 16) (z : RegIdx) : (s.push v h).reg z = s.reg z := rfl
@[simp] theorem State.push_memByte (s : State) (v : Word) (h : s.sp.val < 16) (m : Nat) : (s.push v h).memByte m = s.memByte m := rfl
@[simp] theorem State.push_cell (s : State) (v : Word) (h : s.sp.val < 16) (i : Fin 32) (j : Fin 64) : (s.push v h).cell i j = s.cell i j := rfl
@[simp] theorem State.push_key (s : State) (v : Word) (h : s.sp.val < 16) (q : Fin 16) : (s.push v h).key q = s.key q := rfl

/-! ### pop -/

@[simp] theorem State.pop_V (s : State) (h : 0 < s.sp.val) : ((s.pop h).2).V = s.V := rfl
@[simp] theorem State.pop_pc (s : State) (h : 0 < s.sp.val) : ((s.pop h).2).pc = s.pc := rfl
@[simp] theorem State.pop_I (s : State) (h : 0 < s.sp.val) : ((s.pop h).2).I = s.I := rfl
@[simp] theorem State.pop_stack (s : State) (h : 0 < s.sp.val) : ((s.pop h).2).stack = s.stack := rfl
@[simp] theorem State.pop_sp (s : State) (h : 0 < s.sp.val) : ((s.pop h).2).sp = ⟨s.sp.val - 1, by omega⟩ := rfl
@[simp] theorem State.pop_DT (s : State) (h : 0 < s.sp.val) : ((s.pop h).2).DT = s.DT := rfl
@[simp] theorem State.pop_ST (s : State) (h : 0 < s.sp.val) : ((s.pop h).2).ST = s.ST := rfl
@[simp] theorem State.pop_mem (s : State) (h : 0 < s.sp.val) : ((s.pop h).2).mem = s.mem := rfl
@[simp] theorem State.pop_fb (s : State) (h : 0 < s.sp.val) : ((s.pop h).2).fb = s.fb := rfl
@[simp] theorem State.pop_redrawPending (s : State) (h : 0 < s.sp.val) : ((s.pop h).2).redrawPending = s.redrawPending := rfl
@[simp] theorem State.pop_keys (s : State) (h : 0 < s.sp.val) : ((s.pop h).2).keys = s.keys := rfl
@[simp] theorem State.pop_status (s : State) (h : 0 < s.sp.val) : ((s.pop h).2).status = s.status := rfl
@[simp] theorem State.pop_agenda (s : State) (h : 0 < s.sp.val) : ((s.pop h).2).agenda = s.agenda := rfl
@[simp] theorem State.pop_loadReport (s : State) (h : 0 < s.sp.val) : ((s.pop h).2).loadReport = s.loadReport := rfl
@[simp] theorem State.pop_draws (s : State) (h : 0 < s.sp.val) : ((s.pop h).2).draws = s.draws := rfl
@[simp] theorem State.pop_loads (s : State) (h : 0 < s.sp.val) : ((s.pop h).2).loads = s.loads := rfl
@[simp] theorem State.pop_reg (s : State) (h : 0 < s.sp.val) (z : RegIdx) : ((s.pop h).2).reg z = s.reg z := rfl
@[simp] theorem State.pop_memByte (s : State) (h : 0 < s.sp.val) (m : Nat) : ((s.pop h).2).memByte m = s.memByte m := rfl
@[simp] theorem State.pop_cell (s : State) (h : 0 < s.sp.val) (i : Fin 32) (j : Fin 64) : ((s.pop h).2).cell i j = s.cell i j := rfl
@[simp] theorem State.pop_key (s : State) (h : 0 < s.sp.val) (q : Fin 16) : ((s.pop h).2).key q = s.key q := rfl

/-! ### setCell -/

@[simp] theorem State.setCell_V (s : State) (r : Fin 32) (c : Fin 64) (b : Bool) : (s.setCell r c b).V = s.V := rfl
@[simp] theorem State.setCell_pc (s : State) (r : Fin 32) (c : Fin 64) (b : Bool) : (s.setCell r c b).pc = s.pc := rfl
@[simp] theorem State.setCell_I (s : State) (r : Fin 32) (c : Fin 64) (b : Bool) : (s.setCell r c b).I = s.I := rfl
@[simp] theorem State.setCell_stack (s : State) (r : Fin 32) (c : Fin 64) (b : Bool) : (s.setCell r c b).stack = s.stack := rfl
@[simp] theorem State.setCell_sp (s : State) (r : Fin 32) (c : Fin 64) (b : Bool) : (s.setCell r c b).sp = s.sp := rfl
@[simp] theorem State.setCell_DT (s : State) (r : Fin 32) (c : Fin 64) (b : Bool) : (s.setCell r c b).DT = s.DT := rfl
@[simp] theorem State.setCell_ST (s : State) (r : Fin 32) (c : Fin 64) (b : Bool) : (s.setCell r c b).ST = s.ST := rfl
@[simp] theorem State.setCell_mem (s : State) (r : Fin 32) (c : Fin 64) (b : Bool) : (s.setCell r c b).mem = s.mem := rfl
@[simp] theorem State.setCell_fb (s : State) (r : Fin 32) (c : Fin 64) (b : Bool) : (s.setCell r c b).fb = s.fb.set r (s.fb[r].set c b) := rfl
@[simp] theorem State.setCell_redrawPending (s : State) (r : Fin 32) (c : Fin 64) (b : Bool) : (s.setCell r c b).redrawPending = s.redrawPending := rfl
@[simp] theorem State.setCell_keys (s : State) (r : Fin 32) (c : Fin 64) (b : Bool) : (s.setCell r c b).keys = s.keys := rfl
@[simp] theorem State.setCell_status (s : State) (r : Fin 32) (c : Fin 64) (b : Bool) : (s.setCell r c b).status = s.status := rfl
@[simp] theorem State.setCell_agenda (s : State) (r : Fin 32) (c : Fin 64) (b : Bool) : (s.setCell r c b).agenda = s.agenda := rfl
@[simp] theorem State.setCell_loadReport (s : State) (r : Fin 32) (c : Fin 64) (b : Bool) : (s.setCell r c b).loadReport = s.loadReport := rfl
@[simp] theorem State.setCell_draws (s : State) (r : Fin 32) (c : Fin 64) (b : Bool) : (s.setCell r c b).draws = s.draws := rfl
@[simp] theorem State.setCell_loads (s : State) (r : Fin 32) (c : Fin 64) (b : Bool) : (s.setCell r c b).loads = s.loads := rfl
@[simp] theorem State.setCell_reg (s : State) (r : Fin 32) (c : Fin 64) (b : Bool) (z : RegIdx) : (s.setCell r c b).reg z = s.reg z := rfl
@[simp] theorem State.setCell_memByte (s : State) (r : Fin 32) (c : Fin 64) (b : Bool) (m : Nat) : (s.setCell r c b).memByte m = s.memByte m := rfl
@[simp] theorem State.setCell_key (s : State) (r : Fin 32) (c : Fin 64) (b : Bool) (q : Fin 16) : (s.setCell r c b).key q = s.key q := rfl

/-! ### clearCells -/

@[simp] theorem State.clearCells_V (s : State) : (s.clearCells).V = s.V := rfl
@[simp] theorem State.clearCells_pc (s : State) : (s.clearCells).pc = s.pc := rfl
@[simp] theorem State.clearCells_I (s : State) : (s.clearCells).I = s.I := rfl
@[simp] theorem State.clearCells_stack (s : State) : (s.clearCells).stack = s.stack := rfl
@[simp] theorem State.clearCells_sp (s : State) : (s.clearCells).sp = s.sp := rfl
@[simp] theorem State.clearCells_DT (s : State) : (s.clearCells).DT = s.DT := rfl
@[simp] theorem State.clearCells_ST (s : State) : (s.clearCells).ST = s.ST := rfl
@[simp] theorem State.clearCells_mem (s : State) : (s.clearCells).mem = s.mem := rfl
@[simp] theorem State.clearCells_fb (s : State) : (s.clearCells).fb = Framebuffer.clear := rfl
@[simp] theorem State.clearCells_redrawPending (s : State) : (s.clearCells).redrawPending = s.redrawPending := rfl
@[simp] theorem State.clearCells_keys (s : State) : (s.clearCells).keys = s.keys := rfl
@[simp] theorem State.clearCells_status (s : State) : (s.clearCells).status = s.status := rfl
@[simp] theorem State.clearCells_agenda (s : State) : (s.clearCells).agenda = s.agenda := rfl
@[simp] theorem State.clearCells_loadReport (s : State) : (s.clearCells).loadReport = s.loadReport := rfl
@[simp] theorem State.clearCells_draws (s : State) : (s.clearCells).draws = s.draws := rfl
@[simp] theorem State.clearCells_loads (s : State) : (s.clearCells).loads = s.loads := rfl
@[simp] theorem State.clearCells_reg (s : State) (z : RegIdx) : (s.clearCells).reg z = s.reg z := rfl
@[simp] theorem State.clearCells_memByte (s : State) (m : Nat) : (s.clearCells).memByte m = s.memByte m := rfl
@[simp] theorem State.clearCells_key (s : State) (q : Fin 16) : (s.clearCells).key q = s.key q := rfl

/-! ### markCollision -/

@[simp] theorem State.markCollision_V (s : State) (h : Bool) : (s.markCollision h).V = if h then s.V.set (15 : RegIdx) (flagByte true) else s.V := rfl
@[simp] theorem State.markCollision_pc (s : State) (h : Bool) : (s.markCollision h).pc = s.pc := rfl
@[simp] theorem State.markCollision_I (s : State) (h : Bool) : (s.markCollision h).I = s.I := rfl
@[simp] theorem State.markCollision_stack (s : State) (h : Bool) : (s.markCollision h).stack = s.stack := rfl
@[simp] theorem State.markCollision_sp (s : State) (h : Bool) : (s.markCollision h).sp = s.sp := rfl
@[simp] theorem State.markCollision_DT (s : State) (h : Bool) : (s.markCollision h).DT = s.DT := rfl
@[simp] theorem State.markCollision_ST (s : State) (h : Bool) : (s.markCollision h).ST = s.ST := rfl
@[simp] theorem State.markCollision_mem (s : State) (h : Bool) : (s.markCollision h).mem = s.mem := rfl
@[simp] theorem State.markCollision_fb (s : State) (h : Bool) : (s.markCollision h).fb = s.fb := rfl
@[simp] theorem State.markCollision_redrawPending (s : State) (h : Bool) : (s.markCollision h).redrawPending = s.redrawPending := rfl
@[simp] theorem State.markCollision_keys (s : State) (h : Bool) : (s.markCollision h).keys = s.keys := rfl
@[simp] theorem State.markCollision_status (s : State) (h : Bool) : (s.markCollision h).status = s.status := rfl
@[simp] theorem State.markCollision_agenda (s : State) (h : Bool) : (s.markCollision h).agenda = s.agenda := rfl
@[simp] theorem State.markCollision_loadReport (s : State) (h : Bool) : (s.markCollision h).loadReport = s.loadReport := rfl
@[simp] theorem State.markCollision_draws (s : State) (h : Bool) : (s.markCollision h).draws = s.draws := rfl
@[simp] theorem State.markCollision_loads (s : State) (h : Bool) : (s.markCollision h).loads = s.loads := rfl
@[simp] theorem State.markCollision_memByte (s : State) (h : Bool) (m : Nat) : (s.markCollision h).memByte m = s.memByte m := rfl
@[simp] theorem State.markCollision_cell (s : State) (h : Bool) (i : Fin 32) (j : Fin 64) : (s.markCollision h).cell i j = s.cell i j := rfl
@[simp] theorem State.markCollision_key (s : State) (h : Bool) (q : Fin 16) : (s.markCollision h).key q = s.key q := rfl

/-! ### draw -/

@[simp] theorem State.draw_V (s : State) : (s.draw.2).V = s.V := rfl
@[simp] theorem State.draw_pc (s : State) : (s.draw.2).pc = s.pc := rfl
@[simp] theorem State.draw_I (s : State) : (s.draw.2).I = s.I := rfl
@[simp] theorem State.draw_stack (s : State) : (s.draw.2).stack = s.stack := rfl
@[simp] theorem State.draw_sp (s : State) : (s.draw.2).sp = s.sp := rfl
@[simp] theorem State.draw_DT (s : State) : (s.draw.2).DT = s.DT := rfl
@[simp] theorem State.draw_ST (s : State) : (s.draw.2).ST = s.ST := rfl
@[simp] theorem State.draw_mem (s : State) : (s.draw.2).mem = s.mem := rfl
@[simp] theorem State.draw_fb (s : State) : (s.draw.2).fb = s.fb := rfl
@[simp] theorem State.draw_redrawPending (s : State) : (s.draw.2).redrawPending = s.redrawPending := rfl
@[simp] theorem State.draw_keys (s : State) : (s.draw.2).keys = s.keys := rfl
@[simp] theorem State.draw_status (s : State) : (s.draw.2).status = s.status := rfl
@[simp] theorem State.draw_agenda (s : State) : (s.draw.2).agenda = s.agenda := rfl
@[simp] theorem State.draw_loadReport (s : State) : (s.draw.2).loadReport = s.loadReport := rfl
@[simp] theorem State.draw_draws (s : State) : (s.draw.2).draws = s.draws + 1 := rfl
@[simp] theorem State.draw_loads (s : State) : (s.draw.2).loads = s.loads := rfl
@[simp] theorem State.draw_reg (s : State) (z : RegIdx) : (s.draw.2).reg z = s.reg z := rfl
@[simp] theorem State.draw_memByte (s : State) (m : Nat) : (s.draw.2).memByte m = s.memByte m := rfl
@[simp] theorem State.draw_cell (s : State) (i : Fin 32) (j : Fin 64) : (s.draw.2).cell i j = s.cell i j := rfl
@[simp] theorem State.draw_key (s : State) (q : Fin 16) : (s.draw.2).key q = s.key q := rfl

end Sys2Proof.Machine
end

