-- ==== Sys2Proof/Laws/Memory.lean ====
section
/-! SUPPORT. The laws of memory: a read after a write, the canonical form kept by every memory operation, and that two
memories in canonical form that read alike are the same list. -/

namespace Sys2Proof.Machine

theorem Memory.read?_write (m : Memory) (a : Nat) (v : Byte) (b : Nat) :
    (m.write a v).read? b = if b = a then some v else m.read? b := by
  induction m with
  | nil =>
    by_cases h : b = a
    · simp [Memory.write, Memory.read?, h]
    · simp [Memory.write, Memory.read?, h, Ne.symm h]
  | cons e m ih =>
    obtain ⟨c, u⟩ := e
    by_cases h1 : a < c
    · by_cases h : b = a
      · simp [Memory.write, Memory.read?, h1, h]
      · simp [Memory.write, Memory.read?, h1, h, Ne.symm h]
    · by_cases h2 : a = c
      · subst h2
        by_cases h : b = a
        · simp [Memory.write, Memory.read?, h]
        · simp [Memory.write, Memory.read?, h, Ne.symm h]
      · simp only [Memory.write, h1, h2, if_false, Memory.read?, ih]
        by_cases h3 : c = b
        · subst h3; simp [Ne.symm h2]
        · simp [h3]

/-- Reading back the byte just written. -/
theorem Memory.read?_write_same (m : Memory) (a : Nat) (v : Byte) : (m.write a v).read? a = some v := by
  simp [Memory.read?_write]

theorem Memory.wfFrom_mono {lo lo' : Nat} (h : lo' ≤ lo) {m : Memory} (hm : Memory.wfFrom lo m = true) :
    Memory.wfFrom lo' m = true := by
  cases m with
  | nil => rfl
  | cons e m =>
    obtain ⟨a, v⟩ := e
    simp only [Memory.wfFrom, Bool.and_eq_true, decide_eq_true_eq] at hm ⊢
    exact ⟨⟨by omega, hm.1.2⟩, hm.2⟩

theorem Memory.wfFrom_write {lo : Nat} {m : Memory} (hm : Memory.wfFrom lo m = true) {a : Nat} (v : Byte) (hlo : lo ≤ a)
    (ha : a < 4096) : Memory.wfFrom lo (m.write a v) = true := by
  induction m generalizing lo with
  | nil => simp [Memory.write, Memory.wfFrom, hlo, ha]
  | cons e m ih =>
    obtain ⟨c, u⟩ := e
    simp only [Memory.wfFrom, Bool.and_eq_true, decide_eq_true_eq] at hm
    by_cases h1 : a < c
    · simp only [Memory.write, h1, if_true, Memory.wfFrom, Bool.and_eq_true, decide_eq_true_eq]
      exact ⟨⟨hlo, ha⟩, ⟨⟨h1, hm.1.2⟩, hm.2⟩⟩
    · by_cases h2 : a = c
      · subst h2
        simp only [Memory.write, lt_irrefl, if_false, if_true, Memory.wfFrom, Bool.and_eq_true, decide_eq_true_eq]
        exact hm
      · simp only [Memory.write, h1, h2, if_false, Memory.wfFrom, Bool.and_eq_true, decide_eq_true_eq]
        exact ⟨hm.1, ih hm.2 (by omega)⟩

/-- A write inside memory keeps the canonical form. -/
theorem Memory.wf_write {m : Memory} (hm : m.wf = true) {a : Nat} (v : Byte) (ha : a < 4096) :
    (m.write a v).wf = true :=
  Memory.wfFrom_write hm v (Nat.zero_le a) ha

/-- Writing bytes inside memory keeps the canonical form. -/
theorem Memory.wf_writeBytes {m : Memory} (hm : m.wf = true) {a : Nat} {bs : List Byte} (h : a + bs.length ≤ 4096) :
    (Memory.writeBytes m a bs).wf = true := by
  induction bs generalizing m a with
  | nil => exact hm
  | cons b bs ih =>
    simp only [List.length_cons] at h
    exact ih (Memory.wf_write hm b (by omega)) (by omega)

/-- What `writeBytes` leaves at an address: the byte laid there, or what was there. -/
theorem Memory.read?_writeBytes (m : Memory) (a : Nat) (bs : List Byte) (b : Nat) :
    (Memory.writeBytes m a bs).read? b = if a ≤ b ∧ b < a + bs.length then bs[b - a]? else m.read? b := by
  induction bs generalizing m a with
  | nil =>
    simp [Memory.writeBytes]
  | cons c bs ih =>
    rw [Memory.writeBytes, ih, Memory.read?_write]
    simp only [List.length_cons]
    by_cases h : b = a
    · subst h
      have h1 : ¬(b + 1 ≤ b ∧ b < b + 1 + bs.length) := by omega
      have h2 : b ≤ b ∧ b < b + (bs.length + 1) := by omega
      rw [if_neg h1, if_pos rfl, if_pos h2]; simp
    · by_cases h3 : a + 1 ≤ b ∧ b < a + 1 + bs.length
      · have h4 : a ≤ b ∧ b < a + (bs.length + 1) := by omega
        have h5 : b - a = (b - (a + 1)) + 1 := by omega
        rw [if_pos h3, if_pos h4, h5]; simp
      · have h4 : ¬(a ≤ b ∧ b < a + (bs.length + 1)) := by omega
        rw [if_neg h3, if_neg h, if_neg h4]

theorem Memory.read?_eq_none_of_wfFrom {lo : Nat} {m : Memory} (hm : Memory.wfFrom lo m = true) {b : Nat} (hb : b < lo) :
    m.read? b = none := by
  induction m generalizing lo with
  | nil => rfl
  | cons e m ih =>
    obtain ⟨a, v⟩ := e
    simp only [Memory.wfFrom, Bool.and_eq_true, decide_eq_true_eq] at hm
    have : a ≠ b := by omega
    simp only [Memory.read?, this, if_false]
    exact ih hm.2 (by omega)

theorem Memory.ext_of_wfFrom {lo : Nat} {m n : Memory} (hm : Memory.wfFrom lo m = true) (hn : Memory.wfFrom lo n = true)
    (h : ∀ a, m.read? a = n.read? a) : m = n := by
  induction m generalizing lo n with
  | nil =>
    cases n with
    | nil => rfl
    | cons e n => obtain ⟨a, v⟩ := e; have := h a; simp [Memory.read?] at this
  | cons e m ih =>
    obtain ⟨a, v⟩ := e
    cases n with
    | nil => have := h a; simp [Memory.read?] at this
    | cons f n =>
      obtain ⟨b, u⟩ := f
      simp only [Memory.wfFrom, Bool.and_eq_true, decide_eq_true_eq] at hm hn
      have hab : a = b := by
        by_contra hne
        rcases Nat.lt_or_gt_of_ne hne with hlt | hgt
        · have h1 := h a
          simp only [Memory.read?, if_true, Ne.symm hne, if_false] at h1
          rw [Memory.read?_eq_none_of_wfFrom hn.2 (by omega)] at h1
          exact absurd h1 (by simp)
        · have h1 := h b
          simp only [Memory.read?, if_true, hne, if_false] at h1
          rw [Memory.read?_eq_none_of_wfFrom hm.2 (by omega)] at h1
          exact absurd h1 (by simp)
      subst hab
      have hv : v = u := by have := h a; simpa [Memory.read?] using this
      subst hv
      congr 1
      refine ih hm.2 hn.2 fun c => ?_
      by_cases hc : a = c
      · subst hc
        rw [Memory.read?_eq_none_of_wfFrom hm.2 (by omega), Memory.read?_eq_none_of_wfFrom hn.2 (by omega)]
      · have := h c; simpa [Memory.read?, hc] using this

/-- Memories in canonical form that read alike at every address are equal as data. -/
theorem Memory.ext {m n : Memory} (hm : m.wf = true) (hn : n.wf = true) (h : ∀ a, m.read? a = n.read? a) : m = n :=
  Memory.ext_of_wfFrom hm hn h

/-- Memory at reset is in canonical form. -/
theorem State.reset_mem_wf : State.reset.mem.wf = true := rfl

/-- The byte the machine reads after a store. -/
@[simp] theorem State.memByte_setMemByte (s : State) (a : Nat) (v : Byte) (b : Nat) :
    (s.setMemByte a v).memByte b = if b = a then v else s.memByte b := by
  unfold State.memByte State.setMemByte
  simp only [Memory.read?_write]
  by_cases h : b = a <;> simp [h, State.unlistedByte]

end Sys2Proof.Machine
end

