-- ==== Sys2Proof/Laws/Ops.lean ====
section
/-! SUPPORT. The spec lemma of each shared operation over registers, cells, faults, ranges and keys: what it can do, said
once. -/

namespace Sys2Proof.Machine

/-! ### Registers -/

@[simp] theorem State.reg_setReg (s : State) (x : RegIdx) (v : Byte) (z : RegIdx) :
    (s.setReg x v).reg z = if z = x then v else s.reg z := by
  have h := Vector.getElem_set (xs := s.V) (x := v) x.isLt z.isLt
  have e : (s.setReg x v).reg z = (s.V.set x.val v x.isLt)[z.val]'z.isLt := rfl
  rw [e, h]
  by_cases hz : z = x
  · subst hz; simp
  · have hne : ¬ x.val = z.val := fun h' => hz (Fin.ext h'.symm)
    rw [if_neg hne, if_neg hz]; rfl

@[simp] theorem State.reg_setFlag (s : State) (b : Bool) (z : RegIdx) :
    (s.setFlag b).reg z = if z = 15 then flagByte b else s.reg z :=
  State.reg_setReg s 15 (flagByte b) z

@[simp] theorem State.reg_markCollision (s : State) (h : Bool) (z : RegIdx) :
    (s.markCollision h).reg z = if z = 15 ∧ h = true then 1 else s.reg z := by
  cases h with
  | false => simp [State.markCollision, State.reg]
  | true =>
    have e : s.markCollision true = s.setFlag true := rfl
    rw [e, State.reg_setFlag]; simp [flagByte]

/-- The register 0 of every reset value. -/
theorem State.reset_reg (z : RegIdx) : State.reset.reg z = 0 := by
  simp [State.reset, State.reg]

/-! ### Cells -/

@[simp] theorem State.cell_setCell (s : State) (r : Fin 32) (c : Fin 64) (b : Bool) (i : Fin 32) (j : Fin 64) :
    (s.setCell r c b).cell i j = if i = r ∧ j = c then b else s.cell i j := by
  have e : (s.setCell r c b).cell i j =
      ((s.fb.set r.val ((s.fb[r.val]'r.isLt).set c.val b c.isLt) r.isLt)[i.val]'i.isLt)[j.val]'j.isLt := rfl
  rw [e]
  simp only [Vector.getElem_set]
  by_cases hi : i = r
  · subst hi
    by_cases hj : j = c
    · subst hj; simp
    · have : ¬ c.val = j.val := fun h => hj (Fin.ext h.symm)
      simp [hj, this, State.cell]
  · have : ¬ r.val = i.val := fun h => hi (Fin.ext h.symm)
    simp [hi, this, State.cell]

@[simp] theorem State.cell_xorCell (s : State) (r : Fin 32) (c : Fin 64) (b : Bool) (i : Fin 32) (j : Fin 64) :
    (s.xorCell r c b).cell i j = if i = r ∧ j = c then (s.cell r c ^^ b) else s.cell i j :=
  State.cell_setCell s r c _ i j

@[simp] theorem State.cell_clearCells (s : State) (i : Fin 32) (j : Fin 64) : s.clearCells.cell i j = false := by
  simp [State.clearCells, State.cell, Framebuffer.clear]

/-! ### Faults and the guarded operations -/

/-- Taking a fault changes `status` alone. -/
theorem takeFault_eq (c : Fault) (s : State) : takeFault c s = .next { s with status := .faulted c } := rfl

/-- The range check of R70 as one inequality. -/
theorem State.dataOutOfBounds_iff (s : State) (count : Nat) :
    s.dataOutOfBounds count = true ↔ 1 ≤ count ∧ 4096 < s.I.toNat + count := by
  simp only [State.dataOutOfBounds, Config.memSize, Bool.and_eq_true, decide_eq_true_eq]
  omega

/-- An access inside memory runs. -/
theorem withDataRange_ok {count : Nat} {s : State} (run : State → State) (h : count = 0 ∨ s.I.toNat + count ≤ 4096) :
    withDataRange count s run = .next (run s) := by
  have : ¬ s.dataOutOfBounds count = true := by rw [State.dataOutOfBounds_iff]; omega
  simp [withDataRange, this]

/-- An access that passes the end of memory takes the fault of R243. -/
theorem withDataRange_fault {count : Nat} {s : State} (run : State → State) (h1 : 1 ≤ count)
    (h2 : 4096 < s.I.toNat + count) : withDataRange count s run = takeFault (.dataAddressOutOfBounds s.I) s := by
  have : s.dataOutOfBounds count = true := by rw [State.dataOutOfBounds_iff]; omega
  simp [withDataRange, this]

/-- The two answers of a guarded access. -/
theorem withDataRange_cases (count : Nat) (s : State) (run : State → State) :
    ((count = 0 ∨ s.I.toNat + count ≤ 4096) ∧ withDataRange count s run = .next (run s)) ∨
    ((1 ≤ count ∧ 4096 < s.I.toNat + count) ∧
      withDataRange count s run = .next { s with status := .faulted (.dataAddressOutOfBounds s.I) }) := by
  by_cases h : count = 0 ∨ s.I.toNat + count ≤ 4096
  · exact .inl ⟨h, withDataRange_ok run h⟩
  · exact .inr ⟨by omega, withDataRange_fault run (by omega) (by omega)⟩

/-- The two answers of a key skip. -/
theorem withKey_cases (x : RegIdx) (s : State) (run : Fin 16 → State) :
    (∃ h : (s.reg x).toNat < 16, withKey x s run = .next (run ⟨(s.reg x).toNat, h⟩)) ∨
    (16 ≤ (s.reg x).toNat ∧
      withKey x s run = .next { s with status := .faulted (.keyIndexOutOfRange (s.reg x)) }) := by
  by_cases h : (s.reg x).toNat < 16
  · exact .inl ⟨h, by simp [withKey, h]⟩
  · exact .inr ⟨by omega, by simp [withKey, h, takeFault_eq]⟩

/-! ### Keys -/

theorem mem_pressedKeys (k : Vector Bool 16) (i : Fin 16) : i ∈ pressedKeys k ↔ k[i] = true := by
  simp [pressedKeys]

/-- `KEY_PICK` answers nothing exactly when no key is pressed. -/
theorem keyPick_eq_none (k : Vector Bool 16) : keyPick k = none ↔ ∀ i : Fin 16, k[i] = false := by
  have key : keyPick k = none ↔ pressedKeys k = [] := by
    unfold keyPick
    split <;> simp_all
  rw [key, List.eq_nil_iff_forall_not_mem]
  simp [mem_pressedKeys]

/-- What `KEY_PICK` answers is a pressed key (R225). -/
theorem keyPick_pressed {k : Vector Bool 16} {i : Fin 16} (h : keyPick k = some i) : k[i] = true := by
  unfold keyPick at h
  split at h
  · exact absurd h (by simp)
  · next j hj =>
    cases h
    rw [← mem_pressedKeys, hj]; simp
  · next j js hj =>
    injection h with h
    split at h
    · next hp => rw [← h]; exact hp
    · rw [← h, ← mem_pressedKeys, hj]; simp

end Sys2Proof.Machine
end

