-- ==== Sys2Proof/Laws/Display.lean ====
section
/-! SUPPORT. The sprite blit touches the framebuffer and the flag register alone; one pixel's effect on a cell. -/

namespace Sys2Proof.Machine

/-- One pixel touches the registers and the framebuffer alone. -/
theorem State.drawPixel_eq (s : State) (x : RegIdx) (row : Fin 32) (b : Byte) (c : Nat) :
    s.drawPixel x row b c =
      { s with V := (s.drawPixel x row b c).V, fb := (s.drawPixel x row b c).fb } := rfl

/-- The registers after one pixel: the flag register becomes 1 at a collision, every other is as it was (R203). -/
theorem State.reg_drawPixel (s : State) (x : RegIdx) (row : Fin 32) (b : Byte) (c : Nat) (z : RegIdx) :
    (s.drawPixel x row b c).reg z =
      if z = 15 ∧ (b.getLsbD (7 - c) && s.cell row (s.spriteCol x c)) = true then 1 else s.reg z := by
  have h : ∀ (t : State) (r : Fin 32) (k : Fin 64) (v : Bool), (t.xorCell r k v).reg z = t.reg z := fun _ _ _ _ => rfl
  rw [State.drawPixel, State.plotBit, h, State.reg_markCollision]

/-- The cells after one pixel: the cell at the pixel is XORed with the sprite bit, every other is as it was (R203). -/
theorem State.cell_drawPixel (s : State) (x : RegIdx) (row : Fin 32) (b : Byte) (c : Nat) (i : Fin 32) (j : Fin 64) :
    (s.drawPixel x row b c).cell i j =
      if i = row ∧ j = s.spriteCol x c then (s.cell row (s.spriteCol x c) ^^ b.getLsbD (7 - c)) else s.cell i j := by
  rw [State.drawPixel, State.plotBit, State.cell_xorCell, State.markCollision_cell, State.markCollision_cell]

/-- A sprite row touches the registers and the framebuffer alone. -/
theorem State.drawPixels_eq (s : State) (x : RegIdx) (row : Fin 32) (b : Byte) (n : Nat) :
    s.drawPixels x row b n =
      { s with V := (s.drawPixels x row b n).V, fb := (s.drawPixels x row b n).fb } := by
  induction n with
  | zero => rfl
  | succ n ih => rw [State.drawPixels, ih]; rfl

/-- A sprite touches the registers and the framebuffer alone. -/
theorem State.drawRows_eq (s : State) (x y : RegIdx) (n : Nat) :
    s.drawRows x y n = { s with V := (s.drawRows x y n).V, fb := (s.drawRows x y n).fb } := by
  induction n with
  | zero => rfl
  | succ n ih =>
    rw [State.drawRows, State.drawRow, State.drawPixels_eq, ih]

/-- A sprite row writes no register but the flag register. -/
theorem State.reg_drawPixels_ne (s : State) (x : RegIdx) (row : Fin 32) (b : Byte) (n : Nat) {z : RegIdx} (hz : z ≠ 15) :
    (s.drawPixels x row b n).reg z = s.reg z := by
  induction n with
  | zero => rfl
  | succ n ih => rw [State.drawPixels, State.reg_drawPixel, ih]; simp [hz]

/-- A sprite writes no register but the flag register. -/
theorem State.reg_drawRows_ne (s : State) (x y : RegIdx) (n : Nat) {z : RegIdx} (hz : z ≠ 15) :
    (s.drawRows x y n).reg z = s.reg z := by
  induction n with
  | zero => rfl
  | succ n ih => rw [State.drawRows, State.drawRow, State.reg_drawPixels_ne _ _ _ _ _ hz, ih]

end Sys2Proof.Machine
end

