-- ==== Sys2Proof/Laws/Index.lean ====
section
/-! SUPPORT. What the multi-byte store, load and the digit store do: each touches one field, and what it leaves there. -/

namespace Sys2Proof.Machine

theorem regOfNat_val {i : Nat} (h : i < 16) : (regOfNat i).val = i := by
  simp [regOfNat, Nat.mod_eq_of_lt h]

theorem regOfNat_fin (z : RegIdx) : regOfNat z.val = z := Fin.ext (regOfNat_val z.isLt)

/-- FX55's loop touches memory alone. -/
theorem State.storeRegs_eq (s : State) (n : Nat) : s.storeRegs n = { s with mem := (s.storeRegs n).mem } := by
  induction n with
  | zero => rfl
  | succ n ih => rw [State.storeRegs, ih]; rfl

/-- The bytes FX55's loop leaves: register `b - I` at address `b` of the range, every other byte as it was (R186). -/
theorem State.memByte_storeRegs (s : State) {n : Nat} (hn : n ≤ 16) (b : Nat) :
    (s.storeRegs n).memByte b =
      if s.I.toNat ≤ b ∧ b < s.I.toNat + n then s.reg (regOfNat (b - s.I.toNat)) else s.memByte b := by
  induction n with
  | zero =>
    have : ¬(s.I.toNat ≤ b ∧ b < s.I.toNat + 0) := by omega
    simp [State.storeRegs]
  | succ n ih =>
    have hI : (s.storeRegs n).I = s.I := by rw [State.storeRegs_eq]
    have hV : ∀ z, (s.storeRegs n).reg z = s.reg z := fun z => by rw [State.storeRegs_eq]; rfl
    rw [State.storeRegs, State.memByte_setMemByte, ih (by omega), State.dataAddr, hI, hV]
    by_cases h : b = s.I.toNat + n
    · subst h
      have h2 : s.I.toNat ≤ s.I.toNat + n ∧ s.I.toNat + n < s.I.toNat + (n + 1) := by omega
      rw [if_pos rfl, if_pos h2, Nat.add_sub_cancel_left]
    · rw [if_neg h]
      by_cases h2 : s.I.toNat ≤ b ∧ b < s.I.toNat + n
      · rw [if_pos h2, if_pos (by omega)]
      · rw [if_neg h2, if_neg (by omega)]

/-- FX55's loop keeps memory in canonical form when its range lies in memory. -/
theorem State.storeRegs_wf {s : State} (hs : s.mem.wf = true) {n : Nat} (h : n = 0 ∨ s.I.toNat + n ≤ 4096) :
    (s.storeRegs n).mem.wf = true := by
  induction n with
  | zero => exact hs
  | succ n ih =>
    have hI : (s.storeRegs n).I = s.I := by rw [State.storeRegs_eq]
    rw [State.storeRegs, State.setMemByte_mem]
    exact Memory.wf_write (ih (by omega)) _ (by rw [State.dataAddr, hI]; omega)

/-- FX65's loop touches the registers alone. -/
theorem State.loadRegs_eq (s : State) (n : Nat) : s.loadRegs n = { s with V := (s.loadRegs n).V } := by
  induction n with
  | zero => rfl
  | succ n ih => rw [State.loadRegs, ih]; rfl

/-- The registers FX65's loop leaves: the byte at `I + z` in register `z` of the range, every other as it was (R187). -/
theorem State.reg_loadRegs (s : State) {n : Nat} (hn : n ≤ 16) (z : RegIdx) :
    (s.loadRegs n).reg z = if z.val < n then s.memByte (s.I.toNat + z.val) else s.reg z := by
  induction n with
  | zero => simp [State.loadRegs]
  | succ n ih =>
    have hI : (s.loadRegs n).I = s.I := by rw [State.loadRegs_eq]
    have hM : ∀ a, (s.loadRegs n).memByte a = s.memByte a := fun a => by rw [State.loadRegs_eq]; rfl
    rw [State.loadRegs, State.reg_setReg, ih (by omega), State.dataAddr, hI, hM]
    by_cases h : z.val = n
    · have hz : z = regOfNat n := Fin.ext (by rw [regOfNat_val (by omega), h])
      rw [if_pos hz, if_pos (by omega), h]
    · have hz : ¬ z = regOfNat n := fun e => h (by rw [e, regOfNat_val (by omega)])
      rw [if_neg hz]
      by_cases h2 : z.val < n
      · rw [if_pos h2, if_pos (by omega)]
      · rw [if_neg h2, if_neg (by omega)]

/-- FX33's stores touch memory alone. -/
theorem State.storeDigits_eq (s : State) (b : Byte) :
    s.storeDigits b = { s with mem := (s.storeDigits b).mem } := rfl

/-- The bytes FX33 leaves (R184). -/
theorem State.memByte_storeDigits (s : State) (b : Byte) (a : Nat) :
    (s.storeDigits b).memByte a =
      if a = s.I.toNat + 2 then onesDigit b
      else if a = s.I.toNat + 1 then tensDigit b
      else if a = s.I.toNat then hundredsDigit b
      else s.memByte a := by
  simp [State.storeDigits, State.dataAddr]

/-- FX33 keeps memory in canonical form when its range lies in memory. -/
theorem State.storeDigits_wf {s : State} (hs : s.mem.wf = true) (b : Byte) (h : s.I.toNat + 3 ≤ 4096) :
    (s.storeDigits b).mem.wf = true := by
  simp only [State.storeDigits, State.setMemByte_mem, State.dataAddr]
  exact Memory.wf_write (Memory.wf_write (Memory.wf_write hs _ (by omega)) _ (by omega)) _ (by omega)

end Sys2Proof.Machine
end

