-- ==== Sys2Proof/Laws/PerInstr.lean ====
section
/-! SUPPORT. Per-instruction laws. Family `WellFormed`: every term of `Instr` has operands of the shape and the ranges
of R105, because the operand types carry the bounds of R94. -/

namespace Sys2Proof.Laws.WellFormed

/-- The operands of the instruction have the shape and the ranges of R105. -/
def Statement (i : Instr) : Prop := i.wellFormed = true

theorem cls : Statement .cls := by rfl
theorem ret : Statement .ret := by rfl
theorem jp (nnn : Addr) : Statement (.jp nnn) := by
  simp [Statement, Instr.wellFormed, Instr.asmForm, Instr.asmOperands, AsmForm.operandsOk, nnn.isLt]
theorem call (nnn : Addr) : Statement (.call nnn) := by
  simp [Statement, Instr.wellFormed, Instr.asmForm, Instr.asmOperands, AsmForm.operandsOk, nnn.isLt]
theorem sei (x : RegIdx) (nn : Byte) : Statement (.sei x nn) := by
  simp [Statement, Instr.wellFormed, Instr.asmForm, Instr.asmOperands, AsmForm.operandsOk, x.isLt, nn.isLt]
theorem snei (x : RegIdx) (nn : Byte) : Statement (.snei x nn) := by
  simp [Statement, Instr.wellFormed, Instr.asmForm, Instr.asmOperands, AsmForm.operandsOk, x.isLt, nn.isLt]
theorem se (x y : RegIdx) : Statement (.se x y) := by
  simp [Statement, Instr.wellFormed, Instr.asmForm, Instr.asmOperands, AsmForm.operandsOk, x.isLt, y.isLt]
theorem sne (x y : RegIdx) : Statement (.sne x y) := by
  simp [Statement, Instr.wellFormed, Instr.asmForm, Instr.asmOperands, AsmForm.operandsOk, x.isLt, y.isLt]
theorem ldi (x : RegIdx) (nn : Byte) : Statement (.ldi x nn) := by
  simp [Statement, Instr.wellFormed, Instr.asmForm, Instr.asmOperands, AsmForm.operandsOk, x.isLt, nn.isLt]
theorem addi (x : RegIdx) (nn : Byte) : Statement (.addi x nn) := by
  simp [Statement, Instr.wellFormed, Instr.asmForm, Instr.asmOperands, AsmForm.operandsOk, x.isLt, nn.isLt]
theorem mov (x y : RegIdx) : Statement (.mov x y) := by
  simp [Statement, Instr.wellFormed, Instr.asmForm, Instr.asmOperands, AsmForm.operandsOk, x.isLt, y.isLt]
theorem or (x y : RegIdx) : Statement (.or x y) := by
  simp [Statement, Instr.wellFormed, Instr.asmForm, Instr.asmOperands, AsmForm.operandsOk, x.isLt, y.isLt]
theorem and (x y : RegIdx) : Statement (.and x y) := by
  simp [Statement, Instr.wellFormed, Instr.asmForm, Instr.asmOperands, AsmForm.operandsOk, x.isLt, y.isLt]
theorem xor (x y : RegIdx) : Statement (.xor x y) := by
  simp [Statement, Instr.wellFormed, Instr.asmForm, Instr.asmOperands, AsmForm.operandsOk, x.isLt, y.isLt]
theorem add (x y : RegIdx) : Statement (.add x y) := by
  simp [Statement, Instr.wellFormed, Instr.asmForm, Instr.asmOperands, AsmForm.operandsOk, x.isLt, y.isLt]
theorem sub (x y : RegIdx) : Statement (.sub x y) := by
  simp [Statement, Instr.wellFormed, Instr.asmForm, Instr.asmOperands, AsmForm.operandsOk, x.isLt, y.isLt]
theorem shr (x y : RegIdx) : Statement (.shr x y) := by
  simp [Statement, Instr.wellFormed, Instr.asmForm, Instr.asmOperands, AsmForm.operandsOk, x.isLt]
theorem subn (x y : RegIdx) : Statement (.subn x y) := by
  simp [Statement, Instr.wellFormed, Instr.asmForm, Instr.asmOperands, AsmForm.operandsOk, x.isLt, y.isLt]
theorem shl (x y : RegIdx) : Statement (.shl x y) := by
  simp [Statement, Instr.wellFormed, Instr.asmForm, Instr.asmOperands, AsmForm.operandsOk, x.isLt]
theorem lda (nnn : Addr) : Statement (.lda nnn) := by
  simp [Statement, Instr.wellFormed, Instr.asmForm, Instr.asmOperands, AsmForm.operandsOk, nnn.isLt]
theorem jpv0 (nnn : Addr) : Statement (.jpv0 nnn) := by
  simp [Statement, Instr.wellFormed, Instr.asmForm, Instr.asmOperands, AsmForm.operandsOk, nnn.isLt]
theorem rnd (x : RegIdx) (nn : Byte) : Statement (.rnd x nn) := by
  simp [Statement, Instr.wellFormed, Instr.asmForm, Instr.asmOperands, AsmForm.operandsOk, x.isLt, nn.isLt]
theorem drw (x y : RegIdx) (n : Nibble) : Statement (.drw x y n) := by
  simp [Statement, Instr.wellFormed, Instr.asmForm, Instr.asmOperands, AsmForm.operandsOk, x.isLt, y.isLt, n.isLt]
theorem skp (x : RegIdx) : Statement (.skp x) := by
  simp [Statement, Instr.wellFormed, Instr.asmForm, Instr.asmOperands, AsmForm.operandsOk, x.isLt]
theorem sknp (x : RegIdx) : Statement (.sknp x) := by
  simp [Statement, Instr.wellFormed, Instr.asmForm, Instr.asmOperands, AsmForm.operandsOk, x.isLt]
theorem gdt (x : RegIdx) : Statement (.gdt x) := by
  simp [Statement, Instr.wellFormed, Instr.asmForm, Instr.asmOperands, AsmForm.operandsOk, x.isLt]
theorem wkey (x : RegIdx) : Statement (.wkey x) := by
  simp [Statement, Instr.wellFormed, Instr.asmForm, Instr.asmOperands, AsmForm.operandsOk, x.isLt]
theorem sdt (x : RegIdx) : Statement (.sdt x) := by
  simp [Statement, Instr.wellFormed, Instr.asmForm, Instr.asmOperands, AsmForm.operandsOk, x.isLt]
theorem sst (x : RegIdx) : Statement (.sst x) := by
  simp [Statement, Instr.wellFormed, Instr.asmForm, Instr.asmOperands, AsmForm.operandsOk, x.isLt]
theorem adda (x : RegIdx) : Statement (.adda x) := by
  simp [Statement, Instr.wellFormed, Instr.asmForm, Instr.asmOperands, AsmForm.operandsOk, x.isLt]
theorem glyph (x : RegIdx) : Statement (.glyph x) := by
  simp [Statement, Instr.wellFormed, Instr.asmForm, Instr.asmOperands, AsmForm.operandsOk, x.isLt]
theorem bcd (x : RegIdx) : Statement (.bcd x) := by
  simp [Statement, Instr.wellFormed, Instr.asmForm, Instr.asmOperands, AsmForm.operandsOk, x.isLt]
theorem stm (x : RegIdx) : Statement (.stm x) := by
  simp [Statement, Instr.wellFormed, Instr.asmForm, Instr.asmOperands, AsmForm.operandsOk, x.isLt]
theorem ldm (x : RegIdx) : Statement (.ldm x) := by
  simp [Statement, Instr.wellFormed, Instr.asmForm, Instr.asmOperands, AsmForm.operandsOk, x.isLt]

end Sys2Proof.Laws.WellFormed
end

