-- ==== Sys2Proof/Laws/Step.lean ====
section
/-! SUPPORT. The step cycle: which event a step performs, what a `Step` does in each status, and that the word placed for
the next fetch is the word fetched. -/

namespace Sys2Proof.Machine

/-- With an empty agenda only steps follow. -/
theorem step_of_agenda_nil {s : State} (h : s.agenda = []) : step s = onlySteps s := by
  simp [step, nextEvent, h]

/-- With an event first on the agenda a step performs that event. -/
theorem step_of_agenda_cons {s : State} {e : Event} {es : List Event} (h : s.agenda = e :: es) :
    step s = perform e (s.setAgenda es) := by
  simp [step, nextEvent, h]

/-- With a `Step` first on the agenda a step is that event, on the state without it. -/
theorem step_of_agenda_step {s : State} {es : List Event} (h : s.agenda = .step :: es) :
    step s = stepEvent (s.setAgenda es) :=
  step_of_agenda_cons h

/-- The agenda plays no part in the fetch. -/
@[simp] theorem State.setAgenda_fetchWord (s : State) (es : List Event) : (s.setAgenda es).fetchWord = s.fetchWord := rfl

theorem stepEvent_running {s : State} (h : s.status = .running) : stepEvent s = runStep s := by
  simp [stepEvent, h]

/-- A `Step` issued in any other status changes nothing (R120). -/
theorem stepEvent_not_running {s : State} (h : s.status ≠ .running) : stepEvent s = .next s := by
  unfold stepEvent
  split
  · next hr => exact absurd hr h
  · rfl
  · rfl

theorem onlySteps_running {s : State} (h : s.status = .running) : onlySteps s = runStep s := by
  simp [onlySteps, h]

theorem onlySteps_faulted {s : State} {c : Fault} (h : s.status = .faulted c) : onlySteps s = .fault c := by
  simp [onlySteps, h]

theorem onlySteps_unloaded {s : State} (h : s.status = .unloaded) : onlySteps s = .refused .unloaded := by
  simp [onlySteps, h]

/-- Where the drive with an empty agenda answers a next state, it is that of the event `Step`. -/
theorem stepEvent_of_onlySteps {s t : State} (h : onlySteps s = .next t) : stepEvent s = .next t := by
  unfold onlySteps at h
  split at h
  · next hr => rw [stepEvent_running hr]; exact h
  · cases h
  · cases h

/-- The fetch check of R66 as one inequality. -/
theorem State.fetchOutOfBounds_iff (s : State) : s.fetchOutOfBounds = true ↔ 4095 ≤ s.pc.toNat := by
  simp only [State.fetchOutOfBounds, Config.memSize, decide_eq_true_eq]
  omega

theorem runStep_fetch_fault {s : State} (h : 4095 ≤ s.pc.toNat) :
    runStep s = takeFault (.programCounterOutOfBounds s.pc) s := by
  simp [runStep, (State.fetchOutOfBounds_iff s).2 h]

theorem runStep_in_memory {s : State} (h : s.pc.toNat < 4095) : runStep s = runWord s.fetchWord s := by
  have : ¬ s.fetchOutOfBounds = true := by rw [State.fetchOutOfBounds_iff]; omega
  simp [runStep, this]

theorem runWord_ok {w : Word} {i : Instr} (h : decode w = .ok i) (s : State) : runWord w s = exec i s := by
  simp [runWord, h]

theorem runWord_error {w : Word} {g : ReservedWord} (h : decode w = .error g) (s : State) :
    runWord w s = .next s.advance := by
  simp [runWord, h, execReserved]

/-- The place of the next fetch lies in memory. -/
theorem State.fetchAddr_lt (s : State) : s.fetchAddr < 4095 := by
  unfold State.fetchAddr
  split
  · decide
  · next h => rw [State.fetchOutOfBounds_iff] at h; omega

/-- The word placed for the next fetch is the word fetched. -/
theorem State.fetchWord_placeWord (s : State) (w : Word) : (s.placeWord w).fetchWord = w := by
  have ha := s.fetchAddr_lt
  have hpc : (s.placeWord w).pc.toNat = s.fetchAddr := by
    simp only [State.placeWord, BitVec.toNat_ofNat]; omega
  have hr : ∀ b, (s.placeWord w).mem.read? b =
      if s.fetchAddr ≤ b ∧ b < s.fetchAddr + 2 then (bytesOfWord w)[b - s.fetchAddr]? else s.mem.read? b :=
    fun b => Memory.read?_writeBytes s.mem s.fetchAddr (bytesOfWord w) b
  have h0 : (s.placeWord w).memByte s.fetchAddr = highByte w := by
    rw [State.memByte, hr, if_pos (by omega)]; simp [bytesOfWord]
  have h1 : (s.placeWord w).memByte (s.fetchAddr + 1) = lowByte w := by
    rw [State.memByte, hr, if_pos (by omega)]; simp [bytesOfWord]
  rw [State.fetchWord, hpc, h0, h1, wordOfBytes_bytesOfWord]

/-- A step from a state with a word placed for the fetch runs that word. -/
theorem step_placeWord (s : State) (w : Word) : step (s.placeWord w) = runWord w (s.placeWord w) := by
  have hpc : (s.placeWord w).pc.toNat < 4095 := by
    have := s.fetchAddr_lt
    simp only [State.placeWord, BitVec.toNat_ofNat]; omega
  rw [step_of_agenda_nil rfl, onlySteps_running rfl, runStep_in_memory hpc, State.fetchWord_placeWord]

/-- Every meaning answers a next state: no instruction is refused, and a fault is taken, not stopped on (R246). -/
theorem exec_answers_next (i : Instr) (s : State) : ∃ t, exec i s = .next t := by
  cases i with
  | ret =>
    by_cases h : 0 < s.sp.val
    · exact ⟨_, by simp only [exec, execRet, h, dite_true]; rfl⟩
    · exact ⟨_, by simp only [exec, execRet, h, dite_false, takeFault]; rfl⟩
  | call nnn =>
    by_cases h : s.sp.val < 16
    · exact ⟨_, by simp only [exec, execCall, h, dite_true]; rfl⟩
    · exact ⟨_, by simp only [exec, execCall, h, dite_false, takeFault]; rfl⟩
  | drw x y n =>
    rcases withDataRange_cases n.toNat s
      (fun t => (((t.setFlag false).drawRows x y n.toNat).setRedraw true).advance) with ⟨_, h⟩ | ⟨_, h⟩ <;> exact ⟨_, h⟩
  | bcd x =>
    rcases withDataRange_cases 3 s (fun t => (t.storeDigits (t.reg x)).advance) with ⟨_, h⟩ | ⟨_, h⟩ <;> exact ⟨_, h⟩
  | stm x =>
    rcases withDataRange_cases (x.val + 1) s (fun t => (t.storeRegs (x.val + 1)).advance) with ⟨_, h⟩ | ⟨_, h⟩ <;>
      exact ⟨_, h⟩
  | ldm x =>
    rcases withDataRange_cases (x.val + 1) s (fun t => (t.loadRegs (x.val + 1)).advance) with ⟨_, h⟩ | ⟨_, h⟩ <;>
      exact ⟨_, h⟩
  | skp x =>
    rcases withKey_cases x s (fun k => s.skipIf (s.key k)) with ⟨_, h⟩ | ⟨_, h⟩ <;> exact ⟨_, h⟩
  | sknp x =>
    rcases withKey_cases x s (fun k => s.skipIf (!s.key k)) with ⟨_, h⟩ | ⟨_, h⟩ <;> exact ⟨_, h⟩
  | wkey x =>
    cases hk : keyPick s.keys with
    | none => exact ⟨s, by simp [exec, execWkey, hk]⟩
    | some k => exact ⟨(s.setReg x (BitVec.ofNat 8 k.val)).advance, by simp [exec, execWkey, hk]⟩
  | _ => exact ⟨_, rfl⟩

end Sys2Proof.Machine
end

