-- ==== Sys2Proof/Tests/Slice0.lean ====
section
/-! SUPPORT. The model's own tests: the well-formedness smoke, one decoded word for each instruction, at most two one-step
checks for each, and a witness for the hypotheses of every statement. Expected results come from spec/95_test_vectors.md
(the part is named before each group) or are worked out by hand from the rule named. -/

namespace Sys2Proof.Tests

open Sys2Proof Sys2Proof.Machine Sys2Proof.Claims

/-! ### Helpers -/

/-- The state after reset with `pc`, `I` and some registers set. -/
def start (pc I : Word) (rs : List (RegIdx × Byte)) : State :=
  rs.foldl (fun s r => s.setReg r.1 r.2) ((State.reset.setPc pc).setI I)

/-- A state with some bytes of memory written. -/
def withBytes (a : Nat) (bs : List Byte) (s : State) : State := { s with mem := Memory.writeBytes s.mem a bs }

/-- A state whose call stack has one entry set and a given `sp`. -/
def withStack (sp : Fin 17) (k : Fin 16) (v : Word) (s : State) : State := { s with sp := sp, stack := s.stack.set k v }

/-- A state with exactly the keys of a list pressed. -/
def withKeys (ks : List (Fin 16)) (s : State) : State := s.setKeys (Vector.ofFn fun k => ks.contains k)

/-- A state whose framebuffer has exactly the cells of a list on. -/
def withCells (cs : List (Fin 32 × Fin 64)) (s : State) : State :=
  cs.foldl (fun t c => t.setCell c.1 c.2 true) s.clearCells

/-- The cells that are on are exactly those of a list. -/
def cellsAre (cs : List (Fin 32 × Fin 64)) (s : State) : Bool := decide ((withCells cs s).fb = s.fb)

/-- The result is a next state that a check accepts. -/
def answers (r : Result) (p : State → Bool) : Bool :=
  match r with
  | .next t => p t
  | _ => false

/-- Executing a word (R121 after the fetch) gives a next state that a check accepts. -/
def runs (w : Word) (s : State) (p : State → Bool) : Bool := answers (runWord w s) p

/-- Executing a word takes a fault: only `status` changes (R246). -/
def faults (w : Word) (s : State) (c : Fault) : Bool := runs w s fun t => decide (t = s.faultedWith c)

/-! ### Well-formedness: each check refuses an operand out of its range or of another shape (R94, R105) -/

theorem test_illformed_addr_range : AsmForm.operandsOk .addr [4096] = false := by decide
theorem test_illformed_addr_shape : AsmForm.operandsOk .addr [] = false := by decide
theorem test_illformed_register_range : AsmForm.operandsOk .reg [16] = false := by decide
theorem test_illformed_register_shape : AsmForm.operandsOk .reg [1, 2] = false := by decide
theorem test_illformed_immediate_range : AsmForm.operandsOk .regImm [1, 256] = false := by decide
theorem test_illformed_immediate_register : AsmForm.operandsOk .regImm [16, 1] = false := by decide
theorem test_illformed_pair_first : AsmForm.operandsOk .regReg [16, 0] = false := by decide
theorem test_illformed_pair_second : AsmForm.operandsOk .regReg [0, 16] = false := by decide
theorem test_illformed_height_range : AsmForm.operandsOk .regRegHeight [1, 2, 16] = false := by decide
theorem test_illformed_height_first : AsmForm.operandsOk .regRegHeight [16, 2, 1] = false := by decide
theorem test_illformed_height_second : AsmForm.operandsOk .regRegHeight [1, 16, 1] = false := by decide
theorem test_illformed_no_operand : AsmForm.operandsOk .none [0] = false := by decide

/-- Boundary values of each range are accepted. -/
theorem test_wellformed_bounds : (Instr.jp 0xFFF).wellFormed = true ∧ (Instr.rnd 15 0xFF).wellFormed = true ∧
    (Instr.drw 15 15 15).wellFormed = true ∧ (Instr.shl 15 3).wellFormed = true := by decide

/-- An assembler line with an operand out of range gives no word, one in range its word (R105). -/
theorem test_assemble : OpcodeRow.assemble ⟨"DRW", 0xF000, 0xD000, .regRegHeight⟩ [1, 2, 16] = none ∧
    OpcodeRow.assemble ⟨"DRW", 0xF000, 0xD000, .regRegHeight⟩ [1, 2, 5] = some 0xD125 := by decide

/-! ### Decoding: one word for each instruction, written out bit by bit from its row of R96 -/

theorem test_decode_cls : decode 0b0000000011100000 = .ok .cls := by rfl
theorem test_decode_ret : decode 0b0000000011101110 = .ok .ret := by rfl
theorem test_decode_jp : decode 0b0001101010111100 = .ok (.jp 0xABC) := by rfl
theorem test_decode_call : decode 0b0010001000001010 = .ok (.call 0x20A) := by rfl
theorem test_decode_sei : decode 0b0011101001000010 = .ok (.sei 10 0x42) := by rfl
theorem test_decode_snei : decode 0b0100101001000010 = .ok (.snei 10 0x42) := by rfl
theorem test_decode_se : decode 0b0101000100100000 = .ok (.se 1 2) := by rfl
theorem test_decode_sne : decode 0b1001000100100000 = .ok (.sne 1 2) := by rfl
theorem test_decode_ldi : decode 0b0110111100000111 = .ok (.ldi 15 0x07) := by rfl
theorem test_decode_addi : decode 0b0111000111111111 = .ok (.addi 1 0xFF) := by rfl
theorem test_decode_mov : decode 0b1000000100100000 = .ok (.mov 1 2) := by rfl
theorem test_decode_or : decode 0b1000000100100001 = .ok (.or 1 2) := by rfl
theorem test_decode_and : decode 0b1000000100100010 = .ok (.and 1 2) := by rfl
theorem test_decode_xor : decode 0b1000000100100011 = .ok (.xor 1 2) := by rfl
theorem test_decode_add : decode 0b1000000100100100 = .ok (.add 1 2) := by rfl
theorem test_decode_sub : decode 0b1000000100100101 = .ok (.sub 1 2) := by rfl
theorem test_decode_shr : decode 0b1000000101110110 = .ok (.shr 1 7) := by rfl
theorem test_decode_subn : decode 0b1000000100100111 = .ok (.subn 1 2) := by rfl
theorem test_decode_shl : decode 0b1000000100101110 = .ok (.shl 1 2) := by rfl
theorem test_decode_lda : decode 0b1010001011110000 = .ok (.lda 0x2F0) := by rfl
theorem test_decode_jpv0 : decode 0b1011001100000000 = .ok (.jpv0 0x300) := by rfl
theorem test_decode_rnd : decode 0b1100001100001111 = .ok (.rnd 3 0x0F) := by rfl
theorem test_decode_drw : decode 0b1101000100100101 = .ok (.drw 1 2 5) := by rfl
theorem test_decode_skp : decode 0b1110001010011110 = .ok (.skp 2) := by rfl
theorem test_decode_sknp : decode 0b1110001010100001 = .ok (.sknp 2) := by rfl
theorem test_decode_gdt : decode 0b1111000100000111 = .ok (.gdt 1) := by rfl
theorem test_decode_wkey : decode 0b1111001000001010 = .ok (.wkey 2) := by rfl
theorem test_decode_sdt : decode 0b1111000000010101 = .ok (.sdt 0) := by rfl
theorem test_decode_sst : decode 0b1111010100011000 = .ok (.sst 5) := by rfl
theorem test_decode_adda : decode 0b1111001000011110 = .ok (.adda 2) := by rfl
theorem test_decode_glyph : decode 0b1111010000101001 = .ok (.glyph 4) := by rfl
theorem test_decode_bcd : decode 0b1111000000110011 = .ok (.bcd 0) := by rfl
theorem test_decode_stm : decode 0b1111000101010101 = .ok (.stm 1) := by rfl
theorem test_decode_ldm : decode 0b1111001001100101 = .ok (.ldm 2) := by rfl

/-- Reserved words of each group (95_test_vectors.md, 2.1; R100). -/
theorem test_decode_reserved :
    [0x0000, 0x00E1, 0x01E0, 0x5121, 0x9121, 0x8128, 0x812F, 0xE19F, 0xE1A0, 0xF100, 0xF166, 0xF1FF].map
      (decodeTableWord 16) = List.replicate 12 none := by decide

/-- One byte is no instruction word; two are taken and the rest is left (R90). -/
theorem test_decode_bytes : decodeBytes [0xA2] = .error .truncated ∧
    decodeBytes [0xA2, 0xF0, 0x12] = .ok (.lda 0x2F0, [0x12]) ∧ decodeBytes [0x81, 0x28] = .error (.reserved .group8) :=
  ⟨rfl, rfl, rfl⟩

/-- The directives of R106 and an instruction as bytes of an image, high byte first. -/
theorem test_image : imageOf [.instr (.drw 1 2 2), .dw 0x120A, .db 0xC3] = [0xD1, 0x22, 0x12, 0x0A, 0xC3] := by decide

/-! ### Control transfer (95_test_vectors.md, 2.2) -/

theorem test_jp :
    runs 0x1ABC (start 0x200 0 []) (fun t => t.pc = 0xABC) = true := by decide
theorem test_call_last_entry :
    runs 0x2300 (withStack 15 0 0 (start 0x250 0 [])) (fun t => t.stack[15] = 0x252 && t.sp = 16 && t.pc = 0x300) = true := by decide
theorem test_call_overflow :
    faults 0x2300 (withStack 16 0 0 (start 0x250 0 [])) .stackOverflow = true := by decide
theorem test_ret :
    runs 0x00EE (withStack 1 0 0x202 (start 0x300 0 [])) (fun t => t.sp = 0 && t.pc = 0x202 && t.stack[0] = 0x202) = true := by decide
theorem test_ret_underflow :
    faults 0x00EE (start 0x300 0 []) .stackUnderflow = true := by decide
theorem test_jpv0_no_reduction :
    runs 0xBFFF (start 0x200 0 [(0, 0xFF)]) (fun t => t.pc = 0x10FE) = true := by decide
theorem test_jpv0_offset_register :
    runs 0xB201 (start 0x200 0 [(0, 0), (2, 0x40)]) (fun t => t.pc = 0x201) = true := by decide
theorem test_sei_equal :
    runs 0x3A42 (start 0x200 0 [(10, 0x42)]) (fun t => t.pc = 0x204) = true := by decide
theorem test_sei_unequal :
    runs 0x3A42 (start 0x200 0 [(10, 0x43)]) (fun t => t.pc = 0x202) = true := by decide
theorem test_snei_equal :
    runs 0x4A42 (start 0x200 0 [(10, 0x42)]) (fun t => t.pc = 0x202) = true := by decide
theorem test_snei_unequal :
    runs 0x4A42 (start 0x200 0 [(10, 0x43)]) (fun t => t.pc = 0x204) = true := by decide
theorem test_se_equal :
    runs 0x5120 (start 0x200 0 [(1, 9), (2, 9)]) (fun t => t.pc = 0x204) = true := by decide
theorem test_se_unequal :
    runs 0x5120 (start 0x200 0 [(1, 9), (2, 8)]) (fun t => t.pc = 0x202) = true := by decide
theorem test_sne_equal :
    runs 0x9120 (start 0x200 0 [(1, 9), (2, 9)]) (fun t => t.pc = 0x202) = true := by decide
theorem test_sne_unequal :
    runs 0x9120 (start 0x200 0 [(1, 9), (2, 8)]) (fun t => t.pc = 0x204) = true := by decide
theorem test_skip_past_end :
    runs 0x3000 (start 0xFFE 0 []) (fun t => t.pc = 0x1002) = true := by decide
theorem test_reserved_no_skip_no_fault :
    runs 0x5111 (start 0x200 0 []) (fun t => t.pc = 0x202) = true ∧
    runs 0xE19F (start 0x200 0 [(1, 0xFF)]) (fun t => t.pc = 0x202 && t.status = .running) = true := by decide

/-! ### Arithmetic and logic (95_test_vectors.md, 2.3) -/

theorem test_ldi :
    runs 0x6F07 (start 0x200 0 []) (fun t => t.reg 15 = 0x07 && t.pc = 0x202) = true := by decide
theorem test_addi_no_carry_flag :
    runs 0x7001 (start 0x200 0 [(0, 0xFF), (15, 0)]) (fun t => t.reg 0 = 0 && t.reg 15 = 0 && t.pc = 0x202) = true := by decide
theorem test_mov :
    runs 0x8120 (start 0x200 0 [(1, 1), (2, 0x3C)]) (fun t => t.reg 1 = 0x3C && t.pc = 0x202) = true := by decide
theorem test_or :
    runs 0x8121 (start 0x200 0 [(1, 0x0F), (2, 0xF0), (15, 1)]) (fun t => t.reg 1 = 0xFF && t.reg 15 = 1 && t.pc = 0x202) = true := by decide
theorem test_and :
    runs 0x8122 (start 0x200 0 [(1, 0x3C), (2, 0x0F), (15, 1)]) (fun t => t.reg 1 = 0x0C && t.reg 15 = 1 && t.pc = 0x202) = true := by decide
theorem test_xor :
    runs 0x8123 (start 0x200 0 [(1, 0xFF), (2, 0x0F), (15, 1)]) (fun t => t.reg 1 = 0xF0 && t.reg 15 = 1 && t.pc = 0x202) = true := by decide
theorem test_add_carry :
    runs 0x8124 (start 0x200 0 [(1, 0x80), (2, 0x80)]) (fun t => t.reg 1 = 0 && t.reg 15 = 1 && t.pc = 0x202) = true := by decide
theorem test_add_into_flag :
    runs 0x8F24 (start 0x200 0 [(15, 0xF0), (2, 0x20)]) (fun t => t.reg 15 = 0x10 && t.pc = 0x202) = true := by decide
theorem test_sub_borrow :
    runs 0x8125 (start 0x200 0 [(1, 1), (2, 2)]) (fun t => t.reg 1 = 0xFF && t.reg 15 = 0 && t.pc = 0x202) = true := by decide
theorem test_sub_literal_order :
    runs 0x8F25 (start 0x200 0 [(15, 0x10), (2, 3)]) (fun t => t.reg 15 = 0xFE && t.pc = 0x202) = true := by decide
theorem test_shr :
    runs 0x8176 (start 0x200 0 [(1, 5), (7, 0xFF)]) (fun t => t.reg 1 = 2 && t.reg 15 = 1 && t.reg 7 = 0xFF && t.pc = 0x202) = true := by decide
theorem test_shr_flag_register :
    runs 0x8F06 (start 0x200 0 [(15, 7)]) (fun t => t.reg 15 = 0 && t.pc = 0x202) = true := by decide
theorem test_subn :
    runs 0x8127 (start 0x200 0 [(1, 5), (2, 2)]) (fun t => t.reg 1 = 0xFD && t.reg 15 = 0 && t.pc = 0x202) = true := by decide
theorem test_subn_literal_order :
    runs 0x81F7 (start 0x200 0 [(1, 3), (15, 5)]) (fun t => t.reg 15 = 1 && t.reg 1 = 0xFE && t.pc = 0x202) = true := by decide
theorem test_shl :
    runs 0x812E (start 0x200 0 [(1, 0x81)]) (fun t => t.reg 1 = 2 && t.reg 15 = 1 && t.pc = 0x202) = true := by decide
theorem test_shl_flag_register :
    runs 0x8F0E (start 0x200 0 [(15, 0x41)]) (fun t => t.reg 15 = 0 && t.pc = 0x202) = true := by decide
/-- CXNN with the drawn byte 0xA7. -/
theorem test_random_mask :
    answers (randomWith 0xA7 3 0x0F (start 0x200 0 [])) (fun t => t.reg 3 = 0x07 && t.pc = 0x202) = true := by decide
/-- CXNN with a mask of 0, whatever byte is drawn. -/
theorem test_random_zero (s : State) : (s.draw.1 &&& (0 : Byte)) = 0 := by simp

/-! ### Index register and memory (95_test_vectors.md, 2.4) -/

theorem test_lda :
    runs 0xA2F0 (start 0x200 0 []) (fun t => t.I = 0x2F0) = true := by decide
theorem test_adda_no_reduction :
    runs 0xF21E (start 0x200 0x0FFF [(2, 1), (15, 0)]) (fun t => t.I = 0x1000 && t.reg 15 = 0) = true := by decide
theorem test_adda_wraps :
    runs 0xF21E (start 0x200 0xFFFF [(2, 2)]) (fun t => t.I = 1) = true := by decide
theorem test_glyph_whole_register :
    runs 0xF429 (start 0x200 0 [(4, 0xFF)]) (fun t => t.I = 0x04FB) = true := by decide
theorem test_bcd :
    runs 0xF033 (start 0x200 0x0FFD [(0, 254)])
      (fun t => t.memByte 0xFFD = 2 && t.memByte 0xFFE = 5 && t.memByte 0xFFF = 4 && t.I = 0xFFD) = true := by decide
theorem test_bcd_fault :
    faults 0xF033 (start 0x200 0x0FFE []) (.dataAddressOutOfBounds 0x0FFE) = true := by decide
theorem test_stm :
    runs 0xF155 (withBytes 0x402 [9] (start 0x200 0x400 [(0, 0x11), (1, 0x22), (2, 0x33)]))
      (fun t => t.memByte 0x400 = 0x11 && t.memByte 0x401 = 0x22 && t.memByte 0x402 = 9 && t.I = 0x400) = true := by decide
theorem test_stm_fault :
    faults 0xFF55 (start 0x200 0x0FF1 []) (.dataAddressOutOfBounds 0x0FF1) = true := by decide
theorem test_ldm :
    runs 0xF265 (withBytes 0x300 [2, 5, 4, 9] (start 0x200 0x300 [(3, 0x77)]))
      (fun t => t.reg 0 = 2 && t.reg 1 = 5 && t.reg 2 = 4 && t.reg 3 = 0x77 && t.I = 0x300) = true := by decide
theorem test_ldm_no_wrap :
    faults 0xF065 (start 0x200 0xFFFF []) (.dataAddressOutOfBounds 0xFFFF) = true := by decide

/-! ### Display (95_test_vectors.md, 2.5) -/

theorem test_cls :
    runs 0x00E0 (withCells [(5, 5)] (start 0x200 0 [])) (fun t => cellsAre [] t && t.redrawPending) = true := by decide +kernel
theorem test_draw_wraps_both_ways :
    runs 0xD123 (withBytes 0x300 [0x80, 0x40, 0x20] (start 0x200 0x300 [(1, 200), (2, 30)]))
      (fun t => cellsAre [(30, 8), (31, 9), (0, 10)] t && t.reg 15 = 0 && t.redrawPending) = true := by decide +kernel
/-- Register 15 as the column: it reads 0, then 1 after the collision (decision D13). -/
theorem test_draw_flag_as_column :
    runs 0xDF21 (withCells [(3, 2)] (withBytes 0x300 [0xFF] (start 0x200 0x300 [(2, 3), (15, 9)])))
      (fun t => cellsAre [(3, 0), (3, 1), (3, 4), (3, 5), (3, 6), (3, 7), (3, 8)] t && t.reg 15 = 1) = true := by decide +kernel

/-! ### Timers and keys (95_test_vectors.md, 2.6) -/

theorem test_gdt :
    runs 0xF107 ((start 0x200 0 []).setDT 0x2A) (fun t => t.reg 1 = 0x2A && t.DT = 0x2A) = true := by decide
theorem test_sdt :
    runs 0xF015 (start 0x200 0 [(0, 3)]) (fun t => t.DT = 3) = true := by decide
theorem test_sst :
    runs 0xF518 (start 0x200 0 [(5, 0x10)]) (fun t => t.ST = 0x10 && t.soundOn) = true := by decide
theorem test_skp :
    runs 0xE29E (withKeys [7] (start 0x220 0 [(2, 7)])) (fun t => t.pc = 0x224) = true ∧
    runs 0xE29E (withKeys [8] (start 0x220 0 [(2, 7)])) (fun t => t.pc = 0x222) = true := by decide
theorem test_skp_fault :
    faults 0xE29E (start 0x220 0 [(2, 0x10)]) (.keyIndexOutOfRange 0x10) = true := by decide
theorem test_sknp :
    runs 0xE2A1 (withKeys [7] (start 0x220 0 [(2, 7)])) (fun t => t.pc = 0x222) = true ∧
    runs 0xE2A1 (withKeys [8] (start 0x220 0 [(2, 7)])) (fun t => t.pc = 0x224) = true := by decide
theorem test_sknp_fault :
    faults 0xE2A1 (start 0x220 0 [(2, 0x10)]) (.keyIndexOutOfRange 0x10) = true := by decide
theorem test_wkey_waits :
    runs 0xF20A (start 0x20A 0 [(2, 0x55)]) (fun t => t.pc = 0x20A && t.reg 2 = 0x55) = true := by decide
theorem test_wkey_one_key :
    runs 0xF20A (withKeys [7] (start 0x20A 0 [])) (fun t => t.reg 2 = 7 && t.pc = 0x20C) = true := by decide

/-! ### The step, the events and Load (95_test_vectors.md, 2.1, 2.6 and 2.7) -/

/-- The byte order of the fetch, at an odd `pc` too. -/
theorem test_fetch : (withBytes 0x200 [0xA2, 0xF0] State.reset).fetchWord = 0xA2F0 ∧
    (withBytes 0x201 [0x61, 0x07] (start 0x201 0 [])).fetchWord = 0x6107 := by decide

/-- The last word that can be fetched advances `pc` past the end; the fetch there faults. -/
theorem test_last_word : answers (step (withBytes 0xFFE [0, 0] (start 0xFFE 0 []))) (fun t => t.pc = 0x1000) = true ∧
    answers (step (start 0xFFF 0 [])) (fun t => decide (t = (start 0xFFF 0 []).faultedWith (.programCounterOutOfBounds 0xFFF)))
      = true := by decide

/-- The host's placement of a word: it is the next instruction, the first after reset. -/
theorem test_placed_word : answers (step (State.reset.withFetchWord 16 0x6F07)) (fun t => t.reg 15 = 7 && t.pc = 0x202)
    = true ∧ answers (step ((start 0xFFF 0 []).withFetchWord 16 0x6F07)) (fun t => t.reg 15 = 7 && t.pc = 0x202) = true := by
  decide

/-- A `Tick` on the agenda, with a timer at its floor. -/
theorem test_tick : answers (step { State.reset with DT := 1, agenda := [.tick] })
    (fun t => t.DT = 0 && t.ST = 0 && t.agenda = []) = true := by decide

/-- A `Load` from before the first load: the image at 0x200, the machine `Running`. -/
theorem test_load : answers (step { State.powerOn with agenda := [.load [0x12, 0x34, 0xAB] false] })
    (fun t => t.status = .running && t.memByte 0x200 = 0x12 && t.memByte 0x202 = 0xAB && t.pc = 0x200) = true := by decide

/-- The state after reset is that of a `Load` of the empty image (R34, R281). -/
theorem test_reset_is_empty_load : State.powerOn.load [] false = State.reset := by rfl

/-- The last cell is the last of the 2048 the host reads (R200). -/
theorem test_cell_order : (withCells [(31, 62)] State.reset).cellList.length = 2048 ∧
    (withCells [(31, 62)] State.reset).cellList[2046]? = some true ∧
    (withCells [(31, 62)] State.reset).cellList[2047]? = some false := by decide +kernel

/-- `SetKeys` and `AckRedraw` write their one element. -/
theorem test_latches : answers (step { State.reset with agenda := [.setKeys (Vector.replicate 16 true)] })
    (fun t => t.key 15 && t.key 0) = true ∧
    answers (step { State.reset with redrawPending := true, agenda := [.ackRedraw] }) (fun t => !t.redrawPending) = true := by
  decide

/-- The fault codes of R240. -/
theorem test_fault_codes : [Fault.romTooLarge 3585, .programCounterOutOfBounds 0, .stackOverflow, .stackUnderflow,
    .dataAddressOutOfBounds 0, .keyIndexOutOfRange 16].map Fault.code = [1, 2, 3, 4, 5, 6] := by decide

/-- The customary font is 80 bytes, glyph 0 first and glyph 15 last (R283), and is listed at address 0. -/
theorem test_customary_font : Config.customaryFont.length = 80 ∧
    (State.reset.withCustomaryFont).memByte 0 = 0xF0 ∧ (State.reset.withCustomaryFont).memByte 79 = 0x80 := by decide

/-- The canonical form refuses addresses out of order, repeated or past the end. -/
theorem test_memory_form : Memory.wf [(3, 1), (2, 1)] = false ∧ Memory.wf [(3, 1), (3, 1)] = false ∧
    Memory.wf [(4096, 1)] = false ∧ Memory.wf (Memory.write (Memory.write [] 7 1) 3 2) = true := by decide

/-! ### Witnesses: a concrete state and operands for the hypotheses of each statement, at the boundary values of its clauses -/

/-- The state that runs a word at 0x200. -/
def holding (w : Word) : State := State.reset.placeWord w

theorem witness_EncodeOfDecodeIsIdentity : decode 0xD125 = .ok (.drw 1 2 5) := by rfl

theorem witness_DecodeFollowsOpcodeTable : (⟨"LDM", 0xF0FF, 0xF065, .reg⟩ : OpcodeRow) ∈ opcodeTable ∧
    (0xFF65 : Word) &&& 0xF0FF = 0xF065 := by decide

theorem witness_NoWordMatchesTwoRows : (⟨"DRW", 0xF000, 0xD000, .regRegHeight⟩ : OpcodeRow) ∈ opcodeTable ∧
    OpcodeRow.covers ⟨"DRW", 0xF000, 0xD000, .regRegHeight⟩ 0xD125 = true := by decide

theorem witness_DecodeRejectsExactlyReservedWords : decode 0x8128 = .error .group8 ∧ reservedIn .group8 0x8128 ∧
    ¬ reservedIn .group0 0x00E0 ∧ reservedIn .group0 0x00E1 := by
  simp only [reservedIn]; exact ⟨rfl, by decide, by decide, by decide⟩

theorem witness_AssembledLineDecodesToInstruction : (⟨"SHR", 0xF00F, 0x8006, .reg⟩ : OpcodeRow) ∈ opcodeTable ∧
    (Instr.shr 1 7).mnemonic = "SHR" := by decide

theorem witness_StepRunsDecodedInstruction : (holding 0x6F07).status = .running ∧ (holding 0x6F07).pc.toNat + 1 < 4096 ∧
    decodeBytes [(holding 0x6F07).memByte (holding 0x6F07).pc.toNat, (holding 0x6F07).memByte ((holding 0x6F07).pc.toNat + 1)]
      = .ok (.ldi 15 7, []) ∧ (Instr.ldi 15 7).wellFormed = true ∧ (holding 0x6F07).agenda = [] ∧
    ((holding 0x6F07).setAgenda [.step, .tick]).agenda = .step :: [.tick] := ⟨rfl, by decide, rfl, rfl, rfl, rfl⟩

/-- A `Step` is due with an empty agenda and with a `Step` first on it. -/
theorem witness_stepDue (s : State) (h : s.agenda = []) : stepDue s s ∧ stepDue (s.setAgenda [.step, .tick])
    ((s.setAgenda [.step, .tick]).setAgenda [.tick]) := ⟨.inl ⟨h, rfl⟩, .inr ⟨[.tick], rfl, rfl⟩⟩

theorem witness_FetchIsBigEndianAndBoundsChecked : stepDue (start 0xFFF 0 []) (start 0xFFF 0 []) ∧
    stepDue ((start 0xFFF 0 []).setAgenda [.step]) (start 0xFFF 0 []) ∧ (start 0xFFF 0 []).status = .running ∧
    4096 ≤ (start 0xFFF 0 []).pc.toNat + 1 ∧ (start 0xFFE 0 []).pc.toNat + 1 < 4096 ∧
    decode (withBytes 0xFFE [0x6F, 0x07] (start 0xFFE 0 [])).fetchWord = .ok (.ldi 15 7) ∧
    decode (withBytes 0xFFE [0x00, 0x00] (start 0xFFE 0 [])).fetchWord = .error .group0 :=
  ⟨.inl ⟨rfl, rfl⟩, .inr ⟨[], rfl, rfl⟩, rfl, by decide, by decide, rfl, rfl⟩

theorem witness_ReservedWordOnlyAdvances : stepDue (holding 0xE1A0) (holding 0xE1A0) ∧
    stepDue ((holding 0xE1A0).setAgenda [.step, .tick]) ((holding 0xE1A0).setAgenda [.tick]) ∧
    (holding 0xE1A0).status = .running ∧ (holding 0xE1A0).pc.toNat + 1 < 4096 ∧
    reservedNumber (((holding 0xE1A0).memByte (holding 0xE1A0).pc.toNat).toNat * 256 +
      ((holding 0xE1A0).memByte ((holding 0xE1A0).pc.toNat + 1)).toNat) :=
  ⟨.inl ⟨rfl, rfl⟩, .inr ⟨[.tick], rfl, rfl⟩, rfl, by decide, .groupE, by simp only [reservedIn]; decide⟩

/-- A reserved word of each of the other groups. -/
theorem witness_reservedNumber : reservedNumber 0x0000 ∧ reservedNumber 0x5121 ∧ reservedNumber 0x812F ∧
    reservedNumber 0x912F ∧ reservedNumber 0xF166 :=
  ⟨⟨.group0, by simp only [reservedIn]; decide⟩, ⟨.group5, by simp only [reservedIn]; decide⟩,
    ⟨.group8, by simp only [reservedIn]; decide⟩, ⟨.group9, by simp only [reservedIn]; decide⟩,
    ⟨.groupF, by simp only [reservedIn]; decide⟩⟩

theorem witness_StepActsOnlyWhenRunning :
    (State.powerOn.setAgenda [.step, .load [] false]).agenda = .step :: [.load [] false] ∧
    (State.powerOn.setAgenda [.step, .load [] false]).status ≠ .running ∧ (State.reset.faultedWith .stackOverflow).agenda = [] ∧
    (State.reset.faultedWith .stackOverflow).status = .faulted .stackOverflow ∧ State.powerOn.agenda = [] ∧
    State.powerOn.status = .unloaded := by decide

theorem witness_FaultingStepWritesOnlyStatus : (holding 0x00EE).status = .running ∧ (holding 0x00EE).agenda = [] ∧
    (∃ t, step (holding 0x00EE) = .next t ∧ t.status = .faulted .stackUnderflow) ∧
    (∃ t, step ((holding 0x00EE).setAgenda [.step, .tick]) = .next t ∧ t.status = .faulted .stackUnderflow) :=
  ⟨rfl, rfl, ⟨_, rfl, rfl⟩, ⟨_, rfl, rfl⟩⟩

theorem witness_InstructionFaultsExactlyAsTabled :
    faultOf (.drw 1 2 1) (start 0x200 0x1000 []) = some (.dataAddressOutOfBounds 0x1000) ∧
    faultOf (.drw 1 2 1) (start 0x200 0x0FFF []) = none ∧ faultOf (.drw 1 2 0) (start 0x200 0xFFFF []) = none ∧
    faultOf (.bcd 0) (start 0x200 0x0FFE []) = some (.dataAddressOutOfBounds 0x0FFE) ∧
    faultOf (.bcd 0) (start 0x200 0x0FFD []) = none ∧
    faultOf (.stm 15) (start 0x200 0x0FF1 []) = some (.dataAddressOutOfBounds 0x0FF1) ∧
    faultOf (.ldm 15) (start 0x200 0x0FF0 []) = none ∧
    faultOf (.skp 1) (start 0x200 0 [(1, 16)]) = some (.keyIndexOutOfRange 16) ∧
    faultOf (.sknp 1) (start 0x200 0 [(1, 15)]) = none ∧
    faultOf (.call 0) (withStack 16 0 0 State.reset) = some .stackOverflow ∧ faultOf .ret State.reset = some .stackUnderflow ∧
    faultOf .cls State.reset = none := by decide

/-- A `Tick`, an accepted `Load`, and a rejected one. -/
theorem witness_OnlyLoadLeavesFaulted :
    (∃ t, step { State.reset.faultedWith .stackOverflow with agenda := [.tick] } = .next t ∧
      t.status = .faulted .stackOverflow) ∧
    (∃ t, step { State.reset.faultedWith .stackOverflow with agenda := [.load [] false] } = .next t ∧ t.status = .running) ∧
    (∃ t, step { State.reset.faultedWith .stackOverflow with agenda := [.load (List.replicate 3585 7) false] } = .next t) ∧
    3584 < (List.replicate 3585 (7 : Byte)).length :=
  ⟨⟨_, rfl, rfl⟩, ⟨_, rfl, rfl⟩, ⟨_, rfl⟩, by rw [List.length_replicate]; decide⟩

theorem witness_StepTakesOneEvent : ∃ t, step { State.reset with agenda := [.tick, .step] } = .next t ∧ t.agenda = [.step] :=
  ⟨_, rfl, rfl⟩

theorem witness_PcEndsAsClassSays : (start 0xFFE 0 []).pc.toNat + 1 < 4096 ∧
    pcAfter (.sei 0 0) (start 0xFFE 0 []) = 0x1002 ∧ pcAfter (.wkey 0) (start 0xFFE 0 []) = 0xFFE ∧
    pcAfter .ret (withStack 1 0 0x202 (start 0x300 0 [])) = 0x202 ∧
    faultOf (.bcd 0) (start 0xFFE 0xFFFF []) = some (.dataAddressOutOfBounds 0xFFFF) ∧ decode 0x8128 = .error .group8 ∧
    4096 ≤ (start 0xFFF 0 []).pc.toNat + 1 ∧ (start 0xFFF 0 []).status = .running ∧
    (∃ u, stepDue ((start 0xFFF 0 []).setAgenda [.step]) u) :=
  ⟨by decide, by decide, by decide, by decide, by decide, rfl, by decide, rfl, _, .inr ⟨[], rfl, rfl⟩⟩

theorem witness_InvariantKeptByEveryStep : (holding 0xBFFF).mem.wf = true ∧ (holding 0xBFFF).pc.toNat ≤ 0x10FE ∧
    (∀ k : Fin 16, ((holding 0xBFFF).stack[k]).toNat ≤ 0x1000) ∧ (∃ t, step (holding 0xBFFF) = .next t ∧ t.pc = 0xFFF) :=
  ⟨by decide, by decide, by decide, _, rfl, rfl⟩

theorem witness_JumpToSelfChangesNothing : (holding 0x1200).status = .running ∧ stepDue (holding 0x1200) (holding 0x1200) ∧
    stepDue ((holding 0x1200).setAgenda [.step]) (holding 0x1200) ∧
    (holding 0x1200).pc.toNat = (0x200 : Addr).toNat ∧ (0x200 : Addr).toNat + 1 < 4096 ∧
    decode (holding 0x1200).fetchWord = .ok (.jp 0x200) :=
  ⟨rfl, .inl ⟨rfl, rfl⟩, .inr ⟨[], rfl, rfl⟩, by decide, by decide, rfl⟩

theorem witness_CallPushesReturnAddress : (withStack 15 0 0 State.reset).sp.val < 16 ∧ State.reset.sp.val < 16 ∧
    (withStack 16 0 0 State.reset).sp.val = 16 := by decide

theorem witness_ReturnPopsAddress : (withStack 16 15 0x300 State.reset).sp.val = (15 : Fin 16).val + 1 ∧
    (withStack 1 0 0x300 State.reset).sp.val = (0 : Fin 16).val + 1 ∧ State.reset.sp.val = 0 := by decide

theorem witness_CallAndReturnPairUp : State.reset.sp.val < 16 ∧
    (∃ t u, exec (.call 0x300) State.reset = .next t ∧ (∀ i ∈ [Instr.ldi 1 2, .cls], touchesStack i = false) ∧
      runAll [.ldi 1 2, .cls] t = some u ∧ u.pc = 0x304) := ⟨by decide, _, _, rfl, by decide, rfl, rfl⟩

theorem witness_RegisterSkipsMovePc : (start 0xFFE 0 [(1, 9)]).pc.toNat + 1 < 4096 ∧
    ((start 0xFFE 0 [(1, 9)]).reg 1).toNat = (9 : Byte).toNat ∧
    ((start 0xFFE 0 [(1, 9)]).reg 1).toNat ≠ ((start 0xFFE 0 [(1, 9)]).reg 2).toNat := by decide

theorem witness_OnlyCallAndReturnTouchStack : touchesStack .cls = false ∧ ∃ t, exec .cls State.reset = .next t :=
  ⟨rfl, _, rfl⟩

/-- The four cases of 8XY5, each with both values of the flag where the case allows both. -/
theorem witness_SubtractWritesDifferenceAndNoBorrow :
    runs 0x8125 (start 0x200 0 [(1, 7), (2, 7)]) (fun t => t.reg 1 = 0 && t.reg 15 = 1) = true ∧
    runs 0x8F25 (start 0x200 0 [(15, 2), (2, 3)]) (fun t => t.reg 15 = 0xFD) = true ∧
    runs 0x81F5 (start 0x200 0 [(1, 3), (15, 5)]) (fun t => t.reg 15 = 0 && t.reg 1 = 3) = true ∧
    runs 0x8FF5 (start 0x200 0 [(15, 0x33)]) (fun t => t.reg 15 = 0) = true := by decide

/-- The four cases of 8XY7. -/
theorem witness_ReverseSubtractWritesDifferenceAndNoBorrow :
    runs 0x8127 (start 0x200 0 [(1, 9), (2, 9)]) (fun t => t.reg 1 = 0 && t.reg 15 = 1) = true ∧
    runs 0x8F27 (start 0x200 0 [(15, 0x30), (2, 0x10)]) (fun t => t.reg 15 = 0x10) = true ∧
    runs 0x81F7 (start 0x200 0 [(1, 9), (15, 5)]) (fun t => t.reg 15 = 0 && t.reg 1 = 0xF7) = true ∧
    runs 0x8FF7 (start 0x200 0 [(15, 0x33)]) (fun t => t.reg 15 = 0) = true := by decide

theorem witness_AddWritesSumAndCarry :
    runs 0x81F4 (start 0x200 0 [(1, 0xFF), (15, 1)]) (fun t => t.reg 1 = 0 && t.reg 15 = 1) = true ∧
    runs 0x8124 (start 0x200 0 [(1, 0x80), (2, 0x7F)]) (fun t => t.reg 1 = 0xFF && t.reg 15 = 0) = true := by decide

theorem witness_ShiftClauses : runs 0x8126 (start 0x200 0 [(1, 0x80)]) (fun t => t.reg 1 = 0x40 && t.reg 15 = 0) = true ∧
    runs 0x812E (start 0x200 0 [(1, 0x40)]) (fun t => t.reg 1 = 0x80 && t.reg 15 = 0) = true ∧
    runs 0x8F0E (start 0x200 0 [(15, 0x81)]) (fun t => t.reg 15 = 2) = true := by decide

theorem witness_OnlyDestinationRegistersChange : (0 : RegIdx) ∉ destinations (.add 1 2) ∧ (4 : RegIdx) ∉ destinations (.ldm 3) ∧
    ∃ t, exec (.add 1 2) State.reset = .next t := ⟨by decide, by decide, _, rfl⟩

theorem witness_DecimalDigitsAreStored : (start 0x200 0x0FFD []).I.toNat + 2 < 4096 ∧
    4096 ≤ (start 0x200 0x0FFE []).I.toNat + 2 := by decide

theorem witness_RegistersAreStoredAndLoaded : (start 0x200 0x0FF0 []).I.toNat + (15 : RegIdx).val < 4096 ∧
    4096 ≤ (start 0x200 0x0FF1 []).I.toNat + (15 : RegIdx).val ∧ (start 0x200 0x0FFF []).I.toNat + (0 : RegIdx).val < 4096 ∧
    4096 ≤ (start 0x200 0x1000 []).I.toNat + (0 : RegIdx).val := by decide

theorem witness_StoreThenLoadRestoresRegisters : (start 0x200 0x0FF0 []).I.toNat + (15 : RegIdx).val < 4096 ∧
    ∃ t, exec (.stm 15) (start 0x200 0x0FF0 []) = .next t ∧ t.I = (start 0x200 0x0FF0 []).I ∧
      (∀ a, (start 0x200 0x0FF0 []).I.toNat ≤ a → a ≤ (start 0x200 0x0FF0 []).I.toNat + (15 : RegIdx).val →
        t.memByte a = t.memByte a) := ⟨by decide, _, rfl, rfl, fun _ _ _ => rfl⟩

theorem witness_OnlyTwoInstructionsWriteMemory :
    (∃ t, exec (.stm 0) (withBytes 0x300 [0] (start 0x200 0x300 [(0, 7)])) = .next t ∧
      t.memByte 0x300 ≠ (withBytes 0x300 [0] (start 0x200 0x300 [(0, 7)])).memByte 0x300) ∧
    (∃ t, exec (.bcd 0) (withBytes 0x302 [0] (start 0x200 0x300 [(0, 7)])) = .next t ∧
      t.memByte 0x302 ≠ (withBytes 0x302 [0] (start 0x200 0x300 [(0, 7)])).memByte 0x302) :=
  ⟨⟨_, rfl, by decide⟩, ⟨_, rfl, by decide⟩⟩

/-- FX55 over its own next word, and FX33 with `pc` then at its first and at its second byte; a step is due after each. -/
theorem witness_StoredBytesAreFetchedNext : (start 0x206 0x208 []).I.toNat + (1 : RegIdx).val < 4096 ∧
    (∃ t, exec (.stm 1) (start 0x206 0x208 []) = .next t ∧ stepDue t t ∧ t.status = .running) ∧
    (1 : RegIdx).val = (0 : RegIdx).val + 1 ∧ (1 : RegIdx) ≤ 1 ∧
    (start 0x206 0x208 []).pc.toNat + 2 = (start 0x206 0x208 []).I.toNat + (0 : RegIdx).val ∧
    (start 0xFFB 0xFFD []).I.toNat + 2 < 4096 ∧
    (∃ t, exec (.bcd 1) (start 0xFFB 0xFFD []) = .next t ∧ stepDue t t ∧ t.status = .running) ∧
    (start 0xFFB 0xFFD []).pc.toNat + 2 = (start 0xFFB 0xFFD []).I.toNat ∧
    (∃ t, exec (.bcd 1) (start 0xFFC 0xFFD []) = .next t) ∧
    (start 0xFFC 0xFFD []).pc.toNat + 2 = (start 0xFFC 0xFFD []).I.toNat + 1 :=
  ⟨by decide, ⟨_, rfl, .inl ⟨rfl, rfl⟩, rfl⟩, by decide, by decide, by decide, by decide,
    ⟨_, rfl, .inl ⟨rfl, rfl⟩, rfl⟩, by decide, ⟨_, rfl⟩, by decide⟩

theorem witness_DrawFollowsLiteralLoops : (0 : Nibble).toNat = 0 ∧
    (start 0x200 0x0FFF []).I.toNat + (1 : Nibble).toNat - 1 < 4096 ∧
    (1 : Nibble).toNat ≠ 0 ∧ 4096 ≤ (start 0x200 0x1000 []).I.toNat + (1 : Nibble).toNat - 1 ∧
    4096 ≤ (start 0x200 0x0FF2 []).I.toNat + (15 : Nibble).toNat - 1 := by decide

/-- A sprite of one byte 0x80 at (0, 0), from `I = 0xFFF`. -/
def oneDot : State := withBytes 0x0FFF [0x80] (start 0x200 0x0FFF [])

theorem witness_DrawXorsSpriteAndReportsCollision : (1 : RegIdx) ≠ 15 ∧ (2 : RegIdx) ≠ 15 ∧
    oneDot.I.toNat + (1 : Nibble).toNat - 1 < 4096 ∧ spriteBit oneDot 1 2 1 0 0 ∧
    (withCells [(0, 0)] oneDot).cell 0 0 = true ∧ spriteBit (withCells [(0, 0)] oneDot) 1 2 1 0 0 ∧
    oneDot.cell 0 0 = false :=
  ⟨by decide, by decide, by decide, ⟨0, 0, by decide⟩, by decide, ⟨0, 0, by decide⟩, by decide⟩

theorem witness_NoSpriteBitWithoutRows : ¬ spriteBit oneDot 1 2 0 0 0 := by
  rintro ⟨r, c, h, -⟩
  exact absurd h (Nat.not_lt_zero r)

theorem witness_DrawTwiceRestoresPicture : ∃ t, exec (.drw 1 2 1) oneDot = .next t ∧ t.fb = t.fb ∧ t.I = oneDot.I ∧
    t.reg 1 = oneDot.reg 1 ∧ t.reg 2 = oneDot.reg 2 ∧ t.memByte 0xFFF = oneDot.memByte 0xFFF ∧
    (∀ (r : Fin 32) (c : Fin 64), oneDot.cell r c = false) :=
  ⟨_, rfl, rfl, by decide, by decide, by decide, by decide,
    fun r c => by simp [oneDot, withBytes, start, State.reset, Framebuffer.clear, State.cell, State.setPc, State.setI]⟩

theorem witness_OnlyDisplayInstructionsSetRedraw : (∃ t, exec .cls State.reset = .next t ∧ t.redrawPending = true) ∧
    (∃ t, exec (.drw 1 2 1) (start 0x200 0x1000 []) = .next t ∧ t.redrawPending = false) ∧
    (∃ t, exec (.drw 1 2 0) (start 0x200 0x1000 []) = .next t ∧ t.redrawPending = true) :=
  ⟨⟨_, rfl, rfl⟩, ⟨_, rfl, rfl⟩, ⟨_, rfl, rfl⟩⟩

theorem witness_KeySkipsTestNamedLatch : ((start 0x200 0 [(1, 15)]).reg 1).toNat = (15 : Fin 16).val ∧
    15 < ((start 0x200 0 [(1, 16)]).reg 1).toNat ∧ (withKeys [15] State.reset).key 15 = true := by decide

theorem witness_KeyWaitStoresPressedKey : (∀ k : Fin 16, State.reset.key k = false) ∧
    (∃ k : Fin 16, (withKeys [3, 9] State.reset).key k = true) ∧ (withKeys [0] State.reset).key 0 = true ∧
    (∀ j : Fin 16, j ≠ 0 → (withKeys [0] State.reset).key j = false) := by decide

theorem witness_TimersRiseOnlyByTheirInstruction :
    (∃ t, exec (.sdt 1) (start 0x200 0 [(1, 3)]) = .next t ∧ t.DT ≠ (start 0x200 0 [(1, 3)]).DT) ∧
    (∃ t, exec (.sst 1) (start 0x200 0 [(1, 3)]) = .next t ∧ t.ST ≠ (start 0x200 0 [(1, 3)]).ST) ∧
    (∃ t, step ((start 0x200 0 [(1, 3)]).placeWord 0xF115) = .next t ∧
      ((start 0x200 0 [(1, 3)]).placeWord 0xF115).DT.toNat < t.DT.toNat) ∧
    (∃ t, step ((start 0x200 0 [(1, 3)]).placeWord 0xF118) = .next t ∧
      ((start 0x200 0 [(1, 3)]).placeWord 0xF118).ST.toNat < t.ST.toNat) :=
  ⟨⟨_, rfl, by decide⟩, ⟨_, rfl, by decide⟩, ⟨_, rfl, by decide⟩, ⟨_, rfl, by decide⟩⟩

theorem witness_TickDecrementsTimers : ({ State.reset with DT := 255, agenda := [.tick, .step] } : State).agenda
    = .tick :: [.step] := by decide

theorem witness_HostLatchEventsWriteOneElement :
    ({ State.reset with agenda := [.setKeys (Vector.replicate 16 true)] } : State).agenda
      = .setKeys (Vector.replicate 16 true) :: [] ∧
    ({ State.reset with agenda := [.ackRedraw, .tick] } : State).agenda = .ackRedraw :: [.tick] := by decide

theorem witness_LoadResetsAndCopiesImage :
    ({ State.powerOn with agenda := [.load [] true] } : State).agenda = .load [] true :: [] ∧ ([] : List Byte).length ≤ 3584 ∧
    (List.replicate 3584 (7 : Byte)).length ≤ 3584 := ⟨rfl, by decide, by rw [List.length_replicate]⟩

theorem witness_RejectedLoadChangesNothing :
    ({ State.reset with agenda := [.load (List.replicate 3585 7) true] } : State).agenda
      = .load (List.replicate 3585 7) true :: [] ∧ 3584 < (List.replicate 3585 (7 : Byte)).length :=
  ⟨rfl, by rw [List.length_replicate]; decide⟩

/-- The state after a step that answers a next state. -/
def after (s : State) : State :=
  match step s with
  | .next t => t
  | _ => s

/-- A call to 0x204, a `Tick`, and the return that stands there. -/
def pairRun (k : Nat) : State :=
  after^[k] ((withBytes 0x204 [0x00, 0xEE] (holding 0x2204)).setAgenda [.step, .tick, .step])

theorem witness_CallAndReturnPairUpOverEvents :
    step (pairRun 0) = .next (pairRun 1) ∧ step (pairRun 1) = .next (pairRun 2) ∧ step (pairRun 2) = .next (pairRun 3) ∧
    runsInstruction (pairRun 0) (.call 0x204) ∧ (pairRun 0).sp.val < 16 ∧ (pairRun 2).sp = (pairRun 1).sp ∧
    runsInstruction (pairRun 2) .ret :=
  ⟨rfl, rfl, rfl, ⟨rfl, ⟨_, .inr ⟨_, rfl, rfl⟩⟩, by decide, rfl⟩, by decide, by decide,
    ⟨rfl, ⟨_, .inr ⟨_, rfl, rfl⟩⟩, by decide, rfl⟩⟩

end Sys2Proof.Tests
end

section
/-! PROOFS. Family `00_scope.md`: a step takes exactly one event off the agenda (R9). An instruction writes none of the
fields that belong to the host, whether it completes or faults, and neither does any event but `SetKeys` and `Load`; the
agenda is written by none, so the only change to it in a step is the one `nextEvent` makes. -/

namespace Sys2Proof.Machine

/-! ### What an instruction leaves to the host -/

/-- The fields of `KeepsHostSide` that even a fault leaves alone, that is all of them but `status`. -/
structure KeepsHostFields (s t : State) : Prop where
  keys : t.keys = s.keys
  agenda : t.agenda = s.agenda
  loadReport : t.loadReport = s.loadReport
  loads : t.loads = s.loads

theorem drawRows_keepsHostFields (s : State) (x y : RegIdx) (n : Nat) : KeepsHostFields s (s.drawRows x y n) := by
  rw [State.drawRows_eq]; exact ⟨rfl, rfl, rfl, rfl⟩

theorem storeRegs_keepsHostFields (s : State) (n : Nat) : KeepsHostFields s (s.storeRegs n) := by
  rw [State.storeRegs_eq]; exact ⟨rfl, rfl, rfl, rfl⟩

theorem loadRegs_keepsHostFields (s : State) (n : Nat) : KeepsHostFields s (s.loadRegs n) := by
  rw [State.loadRegs_eq]; exact ⟨rfl, rfl, rfl, rfl⟩

theorem takeFault_keepsHostFields {c : Fault} {s t : State} (h : takeFault c s = .next t) : KeepsHostFields s t := by
  cases h; exact ⟨rfl, rfl, rfl, rfl⟩

/-- A guarded access keeps the host's fields when the access itself does: the other answer is a fault. -/
theorem withDataRange_keepsHostFields {count : Nat} {s t : State} {run : State → State}
    (h : withDataRange count s run = .next t) (hrun : KeepsHostFields s (run s)) : KeepsHostFields s t := by
  rcases withDataRange_cases count s run with ⟨_, he⟩ | ⟨_, he⟩
  · cases he.symm.trans h; exact hrun
  · exact takeFault_keepsHostFields (he.symm.trans h)

/-- A key skip keeps the host's fields when the skip itself does: the other answer is a fault. -/
theorem withKey_keepsHostFields {x : RegIdx} {s t : State} {run : Fin 16 → State}
    (h : withKey x s run = .next t) (hrun : ∀ k, KeepsHostFields s (run k)) : KeepsHostFields s t := by
  rcases withKey_cases x s run with ⟨_, he⟩ | ⟨_, he⟩
  · cases he.symm.trans h; exact hrun _
  · exact takeFault_keepsHostFields (he.symm.trans h)

theorem execRet_keepsHostFields {s t : State} (h : execRet s = .next t) : KeepsHostFields s t := by
  unfold execRet at h
  split at h
  · cases h; exact ⟨rfl, rfl, rfl, rfl⟩
  · exact takeFault_keepsHostFields h

theorem execCall_keepsHostFields {nnn : Addr} {s t : State} (h : execCall nnn s = .next t) : KeepsHostFields s t := by
  unfold execCall at h
  split at h
  · cases h; exact ⟨rfl, rfl, rfl, rfl⟩
  · exact takeFault_keepsHostFields h

theorem execWkey_keepsHostFields {x : RegIdx} {s t : State} (h : execWkey x s = .next t) : KeepsHostFields s t := by
  unfold execWkey at h
  split at h <;> (cases h; exact ⟨rfl, rfl, rfl, rfl⟩)

/-- No instruction writes a field of the host. -/
theorem exec_keepsHostFields {i : Instr} {s t : State} (h : exec i s = .next t) : KeepsHostFields s t := by
  cases i with
  | ret => exact execRet_keepsHostFields h
  | call nnn => exact execCall_keepsHostFields h
  | wkey x => exact execWkey_keepsHostFields h
  | skp x =>
    rw [exec, execSkp] at h
    exact withKey_keepsHostFields h fun _ => ⟨rfl, rfl, rfl, rfl⟩
  | sknp x =>
    rw [exec, execSknp] at h
    exact withKey_keepsHostFields h fun _ => ⟨rfl, rfl, rfl, rfl⟩
  | bcd x =>
    rw [exec, execBcd] at h
    exact withDataRange_keepsHostFields h ⟨rfl, rfl, rfl, rfl⟩
  | drw x y n =>
    rw [exec, execDrw] at h
    obtain ⟨hk, ha, hr, hl⟩ := drawRows_keepsHostFields (s.setFlag false) x y n.toNat
    exact withDataRange_keepsHostFields h ⟨hk, ha, hr, hl⟩
  | stm x =>
    rw [exec, execStm] at h
    obtain ⟨hk, ha, hr, hl⟩ := storeRegs_keepsHostFields s (x.val + 1)
    exact withDataRange_keepsHostFields h ⟨hk, ha, hr, hl⟩
  | ldm x =>
    rw [exec, execLdm] at h
    obtain ⟨hk, ha, hr, hl⟩ := loadRegs_keepsHostFields s (x.val + 1)
    exact withDataRange_keepsHostFields h ⟨hk, ha, hr, hl⟩
  | _ => cases h; exact ⟨rfl, rfl, rfl, rfl⟩

/-! ### What a `Step` and the other events leave to the host -/

theorem runWord_keepsHostFields {w : Word} {s t : State} (h : runWord w s = .next t) : KeepsHostFields s t := by
  cases hw : decode w with
  | ok i => exact exec_keepsHostFields ((runWord_ok hw s).symm.trans h)
  | error g => cases (runWord_error hw s).symm.trans h; exact ⟨rfl, rfl, rfl, rfl⟩

theorem runStep_keepsHostFields {s t : State} (h : runStep s = .next t) : KeepsHostFields s t := by
  rcases Nat.lt_or_ge s.pc.toNat 4095 with hpc | hpc
  · exact runWord_keepsHostFields ((runStep_in_memory hpc).symm.trans h)
  · exact takeFault_keepsHostFields ((runStep_fetch_fault hpc).symm.trans h)

/-- The event `Step` writes no field of the host, whatever the status. -/
theorem stepEvent_keepsHostFields {s t : State} (h : stepEvent s = .next t) : KeepsHostFields s t := by
  by_cases hr : s.status = .running
  · exact runStep_keepsHostFields ((stepEvent_running hr).symm.trans h)
  · cases (stepEvent_not_running hr).symm.trans h; exact ⟨rfl, rfl, rfl, rfl⟩

/-- A `Load`, accepted or rejected, leaves the events to come as they were. -/
@[simp] theorem State.load_agenda (s : State) (rom : List Byte) (b : Bool) : (s.load rom b).agenda = s.agenda := by
  unfold State.load
  split <;> rfl

/-- No event of R9 writes the agenda. -/
theorem perform_agenda {e : Event} {s t : State} (h : perform e s = .next t) : t.agenda = s.agenda := by
  cases e with
  | load rom b => cases h; exact State.load_agenda s rom b
  | step => exact (stepEvent_keepsHostFields h).agenda
  | tick | setKeys | ackRedraw => cases h; rfl

/-- Settles O15: by whether an event stands on the agenda; performing one, or the `Step` that follows an empty agenda,
does not write it. -/
theorem stepTakesOneEvent : Obligations.StepTakesOneEvent := by
  intro s t h
  cases ha : s.agenda with
  | nil =>
    have hstep : stepEvent s = .next t := stepEvent_of_onlySteps ((step_of_agenda_nil ha).symm.trans h)
    exact (stepEvent_keepsHostFields hstep).agenda.trans ha
  | cons e es => exact perform_agenda ((step_of_agenda_cons ha).symm.trans h)

end Sys2Proof.Machine
end

section
/-! PROOFS. Family `10_state.md`: the state's elements and what each event does to them. What an instruction can do to the
state is said once (`exec_cases`: it takes the fault of R240's table, or it completes with one of the effects of `Effect`),
and likewise what an event `Step` (`stepEvent_cases`) and the next event (`step_cases`) can do. The frames of the stack, the
registers, the latches and the timers, and the invariant of R23 and R28, are read off these. -/

namespace Sys2Proof.Machine

open Sys2Proof.Claims

/-! ### The effects of an instruction -/

/-- The instructions that write the framebuffer and `redraw_pending` (R30). -/
def drawsDisplay : Instr → Bool
  | .cls | .drw _ _ _ => true
  | _ => false

theorem drawsDisplay_iff (i : Instr) : drawsDisplay i = true ↔ i = .cls ∨ ∃ x y n, i = .drw x y n := by
  cases i <;> simp [drawsDisplay]

/-- The state after `i` completes in `s`, by the elements that `i` may write; every other element is as it was. -/
inductive Effect (s : State) : Instr → State → Prop
  /-- Registers, `I`, the count of draws and the advance, skip or wait of `pc` (R123). -/
  | regs {i : Instr} {V : Vector Byte 16} {pc I : Word} {draws : Nat} (hdisp : drawsDisplay i = false)
      (hregs : KeepsRegs (destinations i) s { s with V }) (hpc : pc = s.pc ∨ pc = s.pc + 2 ∨ pc = s.pc + 4) :
      Effect s i { s with V, pc, I, draws }
  | jp {nnn : Addr} : Effect s (.jp nnn) (s.setPc (addrWord nnn))
  | jpv0 {nnn : Addr} : Effect s (.jpv0 nnn) (s.setPc (addrWord nnn + byteWord (s.reg 0)))
  | call {nnn : Addr} (h : s.sp.val < 16) : Effect s (.call nnn) ((s.push (s.pc + 2) h).setPc (addrWord nnn))
  | ret (h : 0 < s.sp.val) : Effect s .ret ((s.pop h).2.setPc (s.pop h).1)
  /-- Memory, which stays in canonical form (R28). -/
  | store {i : Instr} {mem : Memory} (hdisp : drawsDisplay i = false) (hwf : s.mem.wf = true → mem.wf = true) :
      Effect s i ({ s with mem } : State).advance
  /-- The framebuffer and the flag register; `redraw_pending` is set (R201, R203). -/
  | display {i : Instr} {V : Vector Byte 16} {fb : Framebuffer} (hdisp : drawsDisplay i = true)
      (hregs : KeepsRegs (destinations i) s { s with V }) :
      Effect s i ({ s with V, fb, redrawPending := true } : State).advance
  | sdt {x : RegIdx} : Effect s (.sdt x) (s.setDT (s.reg x)).advance
  | sst {x : RegIdx} : Effect s (.sst x) (s.setST (s.reg x)).advance

/-- What `i` can do to `s`: it takes the fault that R240's table gives, or there is none and it completes. -/
def Answers (s : State) (i : Instr) (t : State) : Prop :=
  (∃ c, faultOf i s = some c ∧ t = s.faultedWith c) ∨ (faultOf i s = none ∧ Effect s i t)

/-! ### Registers written by the shared operations -/

theorem keepsRegs_refl (rs : List RegIdx) (s : State) : KeepsRegs rs s s := fun _ _ => rfl

theorem keepsRegs_setReg {rs : List RegIdx} {x : RegIdx} (hx : x ∈ rs) (s : State) (v : Byte) :
    KeepsRegs rs s (s.setReg x v) := by
  intro z hz
  rw [State.reg_setReg, if_neg (ne_of_mem_of_not_mem hx hz).symm]

/-- Flag first, then the destination: the two registers of R21's table. -/
theorem keepsRegs_setFlag_setReg (x : RegIdx) (s : State) (b : Bool) (v : Byte) :
    KeepsRegs [x, 15] s ((s.setFlag b).setReg x v) := by
  intro z hz
  calc ((s.setFlag b).setReg x v).reg z
    _ = (s.setFlag b).reg z := keepsRegs_setReg (by simp) (s.setFlag b) v z hz
    _ = s.reg z := keepsRegs_setReg (by simp) s (flagByte b) z hz

theorem keepsRegs_drawRows (x y : RegIdx) (n : Nat) (s : State) :
    KeepsRegs [15] s ((s.setFlag false).drawRows x y n) := by
  intro z hz
  rw [State.reg_drawRows_ne _ _ _ _ (by simpa using hz)]
  exact keepsRegs_setReg (by simp) s (flagByte false) z hz

theorem keepsRegs_loadRegs (x : RegIdx) (s : State) : KeepsRegs (destinations (.ldm x)) s (s.loadRegs (x.val + 1)) := by
  intro z hz
  have hlt : ¬ z.val < x.val + 1 := by simpa [destinations, Nat.lt_succ_iff] using hz
  rw [State.reg_loadRegs s (by omega), if_neg hlt]

/-! ### The effect of each instruction -/

theorem skipIf_effect {i : Instr} {s : State} {b : Bool} (hdisp : drawsDisplay i = false) :
    Effect s i (s.skipIf b) := by
  refine .regs hdisp (keepsRegs_refl _ s) ?_
  cases b
  · exact .inr (.inl rfl)
  · exact .inr (.inr rfl)

/-- An access through `I` answers by its range check; the check is R240's row for `i` when that row has the same bound. -/
theorem withDataRange_answers {i : Instr} {count : Nat} {s t : State} {run : State → State}
    (h : withDataRange count s run = .next t)
    (hfault : faultOf i s = if 1 ≤ count ∧ 4096 < s.I.toNat + count then some (.dataAddressOutOfBounds s.I) else none)
    (hrun : count = 0 ∨ s.I.toNat + count ≤ 4096 → Effect s i (run s)) : Answers s i t := by
  rcases withDataRange_cases count s run with ⟨hr, he⟩ | ⟨hr, he⟩
  · cases he.symm.trans h
    exact .inr ⟨hfault.trans (if_neg (by omega)), hrun hr⟩
  · cases he.symm.trans h
    exact .inl ⟨_, hfault.trans (if_pos hr), rfl⟩

theorem withKey_answers {i : Instr} {x : RegIdx} {s t : State} {run : Fin 16 → State} (h : withKey x s run = .next t)
    (hfault : faultOf i s = if 15 < (s.reg x).toNat then some (.keyIndexOutOfRange (s.reg x)) else none)
    (hrun : ∀ k, Effect s i (run k)) : Answers s i t := by
  rcases withKey_cases x s run with ⟨hk, he⟩ | ⟨hk, he⟩
  · cases he.symm.trans h
    exact .inr ⟨hfault.trans (if_neg (by omega)), hrun _⟩
  · cases he.symm.trans h
    exact .inl ⟨_, hfault.trans (if_pos (by omega)), rfl⟩

theorem execRet_answers {s t : State} (h : execRet s = .next t) : Answers s .ret t := by
  unfold execRet at h
  split at h
  · next hsp => cases h; exact .inr ⟨if_neg (by omega), .ret hsp⟩
  · cases h; exact .inl ⟨_, if_pos (by omega), rfl⟩

theorem execCall_answers {nnn : Addr} {s t : State} (h : execCall nnn s = .next t) : Answers s (.call nnn) t := by
  unfold execCall at h
  split at h
  · next hsp => cases h; exact .inr ⟨if_neg (by omega), .call hsp⟩
  · cases h; exact .inl ⟨_, if_pos (by omega), rfl⟩

theorem execWkey_effect {x : RegIdx} {s t : State} (h : execWkey x s = .next t) : Effect s (.wkey x) t := by
  unfold execWkey at h
  split at h
  · cases h; exact .regs rfl (keepsRegs_refl _ s) (.inl rfl)
  · cases h; exact .regs rfl (keepsRegs_setReg (by simp [destinations]) s _) (.inr (.inl rfl))

theorem execDrw_effect (x y : RegIdx) (n : Nibble) (s : State) :
    Effect s (.drw x y n) (((s.setFlag false).drawRows x y n.toNat).setRedraw true).advance := by
  rw [State.drawRows_eq]
  exact .display rfl (keepsRegs_drawRows x y n.toNat s)

theorem execStm_effect {x : RegIdx} {s : State} (h : s.I.toNat + (x.val + 1) ≤ 4096) :
    Effect s (.stm x) (s.storeRegs (x.val + 1)).advance := by
  rw [State.storeRegs_eq]
  exact .store rfl fun hwf => State.storeRegs_wf hwf (.inr h)

theorem execLdm_effect (x : RegIdx) (s : State) : Effect s (.ldm x) (s.loadRegs (x.val + 1)).advance := by
  rw [State.loadRegs_eq]
  exact .regs rfl (keepsRegs_loadRegs x s) (.inr (.inl rfl))

/-- What an instruction can do. -/
theorem exec_cases {i : Instr} {s t : State} (h : exec i s = .next t) : Answers s i t := by
  cases i with
  | ret => exact execRet_answers h
  | call nnn => exact execCall_answers h
  | skp x =>
    rw [exec, execSkp] at h
    exact withKey_answers h rfl fun _ => skipIf_effect rfl
  | sknp x =>
    rw [exec, execSknp] at h
    exact withKey_answers h rfl fun _ => skipIf_effect rfl
  | bcd x =>
    rw [exec, execBcd] at h
    exact withDataRange_answers h (if_congr (by omega) rfl rfl) fun hr =>
      .store rfl fun hwf => State.storeDigits_wf hwf (s.reg x) (by omega)
  | drw x y n =>
    rw [exec, execDrw] at h
    exact withDataRange_answers h (if_congr (by omega) rfl rfl) fun _ => execDrw_effect x y n s
  | stm x =>
    rw [exec, execStm] at h
    exact withDataRange_answers h (if_congr (by omega) rfl rfl) fun hr => execStm_effect (by omega)
  | ldm x =>
    rw [exec, execLdm] at h
    exact withDataRange_answers h (if_congr (by omega) rfl rfl) fun _ => execLdm_effect x s
  | wkey x => exact .inr ⟨rfl, execWkey_effect h⟩
  | cls => cases h; exact .inr ⟨rfl, .display rfl (keepsRegs_refl _ s)⟩
  | jp nnn => cases h; exact .inr ⟨rfl, .jp⟩
  | jpv0 nnn => cases h; exact .inr ⟨rfl, .jpv0⟩
  | sdt x => cases h; exact .inr ⟨rfl, .sdt⟩
  | sst x => cases h; exact .inr ⟨rfl, .sst⟩
  | sei x nn | snei x nn | se x y | sne x y => cases h; exact .inr ⟨rfl, skipIf_effect rfl⟩
  | lda nnn | adda x | glyph x => cases h; exact .inr ⟨rfl, .regs rfl (keepsRegs_refl _ s) (.inr (.inl rfl))⟩
  | add x y | sub x y | shr x y | subn x y | shl x y =>
    cases h; exact .inr ⟨rfl, .regs rfl (keepsRegs_setFlag_setReg x s _ _) (.inr (.inl rfl))⟩
  | ldi x nn | addi x nn | mov x y | or x y | and x y | xor x y | rnd x nn | gdt x =>
    cases h; exact .inr ⟨rfl, .regs rfl (keepsRegs_setReg (by simp [destinations]) s _) (.inr (.inl rfl))⟩

/-! ### What an event can do -/

/-- What the event `Step` does to `s` (R120, R121): nothing outside `Running`; the fault of the fetch; the no-operation of a
reserved word; or the instruction at `pc`. -/
inductive StepEffect (s : State) : State → Prop
  | idle (hstatus : s.status ≠ .running) : StepEffect s s
  | fetchFault (hstatus : s.status = .running) (hpc : 4095 ≤ s.pc.toNat) :
      StepEffect s (s.faultedWith (.programCounterOutOfBounds s.pc))
  | reserved {g : ReservedWord} (hstatus : s.status = .running) (hpc : s.pc.toNat < 4095)
      (hword : decode s.fetchWord = .error g) : StepEffect s s.advance
  | instr {i : Instr} {t : State} (hstatus : s.status = .running) (hpc : s.pc.toNat < 4095)
      (hword : decode s.fetchWord = .ok i) (hexec : exec i s = .next t) : StepEffect s t

theorem stepEvent_cases {s t : State} (h : stepEvent s = .next t) : StepEffect s t := by
  by_cases hr : s.status = .running
  · rw [stepEvent_running hr] at h
    rcases Nat.lt_or_ge s.pc.toNat 4095 with hpc | hpc
    · rw [runStep_in_memory hpc] at h
      cases hw : decode s.fetchWord with
      | ok i => exact .instr hr hpc hw ((runWord_ok hw s).symm.trans h)
      | error g => cases (runWord_error hw s).symm.trans h; exact .reserved hr hpc hw
    · cases (runStep_fetch_fault hpc).symm.trans h; exact .fetchFault hr hpc
  · cases (stepEvent_not_running hr).symm.trans h; exact .idle hr

/-- What one step of the model can be: a `Step` that is due, or another event from the agenda (R9). -/
theorem step_cases {s t : State} (h : step s = .next t) :
    (∃ u, stepDue s u ∧ StepEffect u t) ∨
    ∃ e es, s.agenda = e :: es ∧ e ≠ .step ∧ perform e (s.setAgenda es) = .next t := by
  cases ha : s.agenda with
  | nil =>
    rw [step_of_agenda_nil ha] at h
    exact .inl ⟨s, .inl ⟨ha, rfl⟩, stepEvent_cases (stepEvent_of_onlySteps h)⟩
  | cons e es =>
    rw [step_of_agenda_cons ha] at h
    by_cases he : e = .step
    · subst he
      exact .inl ⟨_, .inr ⟨es, ha, rfl⟩, stepEvent_cases h⟩
    · exact .inr ⟨e, es, rfl, he, h⟩

/-- A `Load` puts back the reset values, or it reports that the image is too long (R281, R282). -/
theorem State.load_cases (s : State) (rom : List Byte) (b : Bool) :
    (rom.length ≤ 3584 ∧ s.load rom b = s.loadImage rom b) ∨
    (3584 < rom.length ∧ s.load rom b = { s with loadReport := some (.romTooLarge rom.length) }) := by
  by_cases hlen : 3584 < rom.length
  · exact .inr ⟨hlen, if_pos hlen⟩
  · exact .inl ⟨by omega, if_neg hlen⟩

/-! ### The invariant (R23, R28) -/

theorem inv_setPc {s : State} (hs : s.Inv) {p : Word} (hp : p.toNat ≤ 0x10FE) : (s.setPc p).Inv := by
  obtain ⟨hmem, -, hstack⟩ := hs
  exact ⟨hmem, hp, hstack⟩

/-- A fetched instruction lies below 4095, so `pc + 2` and `pc + 4` stay in R23's range. -/
theorem toNat_pc_add_le {pc : Word} (hpc : pc.toNat < 4095) : (pc + 2).toNat ≤ 0x1000 ∧ (pc + 4).toNat ≤ 0x1002 := by
  bv_omega

theorem inv_advance {s : State} (hs : s.Inv) (hpc : s.pc.toNat < 4095) : s.advance.Inv :=
  inv_setPc hs ((toNat_pc_add_le hpc).1.trans (by decide))

theorem toNat_addrWord_le (nnn : Addr) : (addrWord nnn).toNat ≤ 0xFFF := by
  rw [addrWord, BitVec.toNat_setWidth]; omega

/-- The largest target of BNNN, 0xFFF + 0xFF, is the largest `pc` (R23, R128). -/
theorem toNat_addrWord_add_byteWord_le (nnn : Addr) (b : Byte) : (addrWord nnn + byteWord b).toNat ≤ 0x10FE := by
  rw [addrWord, byteWord]; bv_omega

theorem inv_push {s : State} (hs : s.Inv) {v : Word} (hv : v.toNat ≤ 0x1000) (h : s.sp.val < 16) : (s.push v h).Inv := by
  obtain ⟨hmem, hpc, hstack⟩ := hs
  refine ⟨hmem, hpc, fun k => ?_⟩
  have hget : (s.push v h).stack[k] = if s.sp.val = k.val then v else s.stack[k] := Vector.getElem_set h k.isLt
  rw [hget]
  split
  · exact hv
  · exact hstack k

/-- The popped entry is one of the stack, so at most 0x1000. -/
theorem pop_le_of_inv {s : State} (hs : s.Inv) (h : 0 < s.sp.val) : (s.pop h).1.toNat ≤ 0x1000 := by
  obtain ⟨-, -, hstack⟩ := hs
  exact hstack ⟨s.sp.val - 1, by omega⟩

/-- An instruction that completes from a fetchable `pc` keeps the invariant. -/
theorem Effect.inv {i : Instr} {s t : State} (he : Effect s i t) (hs : s.Inv) (hpc : s.pc.toNat < 4095) : t.Inv := by
  cases he with
  | regs _ _ hpc' =>
    obtain ⟨h2, h4⟩ := toNat_pc_add_le hpc
    refine inv_setPc hs ?_
    rcases hpc' with rfl | rfl | rfl <;> omega
  | jp => exact inv_setPc hs ((toNat_addrWord_le _).trans (by decide))
  | jpv0 => exact inv_setPc hs (toNat_addrWord_add_byteWord_le _ _)
  | call h =>
    exact inv_setPc (inv_push hs (toNat_pc_add_le hpc).1 h) ((toNat_addrWord_le _).trans (by decide))
  | ret h => exact inv_setPc hs ((pop_le_of_inv hs h).trans (by decide))
  | store _ hwf =>
    obtain ⟨hmem, hpc', hstack⟩ := hs
    exact inv_advance ⟨hwf hmem, hpc', hstack⟩ hpc
  | display | sdt | sst => exact inv_advance hs hpc

theorem exec_inv {i : Instr} {s t : State} (hs : s.Inv) (hpc : s.pc.toNat < 4095) (h : exec i s = .next t) : t.Inv := by
  rcases exec_cases h with ⟨c, -, rfl⟩ | ⟨-, he⟩
  · exact hs
  · exact he.inv hs hpc

theorem StepEffect.inv {s t : State} (he : StepEffect s t) (hs : s.Inv) : t.Inv := by
  cases he with
  | idle | fetchFault => exact hs
  | reserved _ hpc _ => exact inv_advance hs hpc
  | instr _ hpc _ hexec => exact exec_inv hs hpc hexec

theorem inv_loadImage (s : State) {rom : List Byte} (b : Bool) (hlen : rom.length ≤ 3584) : (s.loadImage rom b).Inv := by
  have hend : Config.progBase + rom.length ≤ 4096 := by rw [Config.progBase]; omega
  refine ⟨Memory.wf_writeBytes (m := []) rfl hend, ?_, fun k => ?_⟩
  · simp [State.pcInRange, State.loadImage]
  · simp [State.loadImage]

theorem inv_load {s : State} (hs : s.Inv) (rom : List Byte) (b : Bool) : (s.load rom b).Inv := by
  rcases s.load_cases rom b with ⟨hlen, he⟩ | ⟨-, he⟩
  · rw [he]; exact inv_loadImage s b hlen
  · rw [he]; exact hs

/-- The events other than `Step` keep the invariant. -/
theorem perform_inv {e : Event} {s t : State} (hstep : e ≠ .step) (hs : s.Inv) (h : perform e s = .next t) : t.Inv := by
  cases e with
  | step => exact absurd rfl hstep
  | load rom b => cases h; exact inv_load hs rom b
  | tick | setKeys | ackRedraw => cases h; exact hs

/-- Settles O17: an event that is not a `Step` does not move `pc` or is a `Load`; a `Step` runs an instruction only where
`pc` is below 4095. -/
theorem invariantKeptByEveryStep : Obligations.InvariantKeptByEveryStep := by
  intro s t hs h
  rcases step_cases h with ⟨u, hu, he⟩ | ⟨e, es, -, hstep, he⟩
  · have hinv : u.Inv := by rcases hu with ⟨-, rfl⟩ | ⟨es, -, rfl⟩ <;> exact hs
    exact he.inv hinv
  · exact perform_inv (s := s.setAgenda es) hstep hs he

/-! ### What an instruction leaves unchanged -/

/-- Settles O26: a fault writes `status` alone, and of the effects only those of call and return name the stack. -/
theorem onlyCallAndReturnTouchStack : Obligations.OnlyCallAndReturnTouchStack := by
  intro i s t h htouch
  rcases exec_cases h with ⟨c, -, rfl⟩ | ⟨-, he⟩
  · exact ⟨rfl, fun _ => rfl⟩
  · cases he with
    | call | ret => cases htouch
    | _ => exact ⟨rfl, fun _ => rfl⟩

/-- Settles O36: the two effects that write registers write destinations alone, and the others and a fault write none. -/
theorem onlyDestinationRegistersChange : Obligations.OnlyDestinationRegistersChange := by
  intro i s t h
  rcases exec_cases h with ⟨c, -, rfl⟩ | ⟨-, he⟩
  · exact keepsRegs_refl _ s
  · cases he with
    | regs _ hregs _ => exact hregs
    | display _ hregs => exact hregs
    | _ => exact keepsRegs_refl _ s

/-- An instruction that completes sets `redraw_pending` if it is a display instruction, and else leaves it. -/
theorem Effect.redrawPending {i : Instr} {s t : State} (he : Effect s i t) :
    t.redrawPending = (s.redrawPending || drawsDisplay i) := by
  cases he with
  | regs hdisp | store hdisp | display hdisp => simp [hdisp]
  | _ => exact (Bool.or_false _).symm

/-- Settles O48: the latches are of the host's fields; `redraw_pending` goes by whether the instruction faults, which 00E0
never does. -/
theorem onlyDisplayInstructionsSetRedraw : Obligations.OnlyDisplayInstructionsSetRedraw := by
  intro i s t h
  refine ⟨(exec_keepsHostFields h).keys, ?_⟩
  rcases exec_cases h with ⟨c, hfault, rfl⟩ | ⟨hnone, he⟩
  · have hcls : i ≠ .cls := by rintro rfl; cases hfault
    simp [hfault, hcls, State.faultedWith]
  · rw [he.redrawPending, Bool.or_eq_true, drawsDisplay_iff, hnone]
    simp

/-! ### The cells as the host reads them (R29, R200) -/

theorem State.cellList_eq_flatten (s : State) : s.cellList = s.fb.flatten.toList := by
  have hflat : s.fb.flatten.toList = (s.fb.toArray.map Vector.toArray).flatten.toList := rfl
  rw [hflat, Array.toList_flatten, Array.toList_map, List.map_map]
  rfl

/-- Settles O49: the list is the flattened framebuffer, whose element `k` is cell (`k / 64`, `k % 64`). -/
theorem cellsAreReadRowMajor : Obligations.CellsAreReadRowMajor := by
  intro s
  rw [State.cellList_eq_flatten]
  refine ⟨Vector.length_toList, fun r c => ?_⟩
  have hlt : r.val * 64 + c.val < 32 * 64 := by omega
  have hdiv : (r.val * 64 + c.val) / 64 = r.val := by omega
  have hmod : (r.val * 64 + c.val) % 64 = c.val := by omega
  rw [List.getElem?_eq_getElem (by simpa using hlt), Vector.getElem_toList, Vector.getElem_flatten]
  simp only [hdiv, hmod]
  rfl

/-! ### The timers (R27, R298) -/

theorem exec_timers {i : Instr} {s t : State} (h : exec i s = .next t) :
    (t.DT ≠ s.DT → ∃ x, i = .sdt x) ∧ (t.ST ≠ s.ST → ∃ x, i = .sst x) := by
  rcases exec_cases h with ⟨c, -, rfl⟩ | ⟨-, he⟩
  · exact ⟨fun hne => absurd rfl hne, fun hne => absurd rfl hne⟩
  · cases he with
    | sdt => exact ⟨fun _ => ⟨_, rfl⟩, fun hne => absurd rfl hne⟩
    | sst => exact ⟨fun hne => absurd rfl hne, fun _ => ⟨_, rfl⟩⟩
    | _ => exact ⟨fun hne => absurd rfl hne, fun hne => absurd rfl hne⟩

theorem timerDown_le (v : Byte) : (timerDown v).toNat ≤ v.toNat := by
  unfold timerDown
  split
  · exact Nat.zero_le _
  · next hne => bv_omega

/-- Neither timer is above what it was. -/
def TimersNotAbove (s t : State) : Prop := t.DT.toNat ≤ s.DT.toNat ∧ t.ST.toNat ≤ s.ST.toNat

theorem timersNotAbove_refl (s : State) : TimersNotAbove s s := ⟨le_rfl, le_rfl⟩

/-- The events other than `Step` raise no timer. -/
theorem perform_timersNotAbove {e : Event} {s t : State} (hstep : e ≠ .step) (h : perform e s = .next t) :
    TimersNotAbove s t := by
  cases e with
  | step => exact absurd rfl hstep
  | tick => cases h; exact ⟨timerDown_le _, timerDown_le _⟩
  | setKeys | ackRedraw => cases h; exact timersNotAbove_refl s
  | load rom b =>
    cases h
    rcases s.load_cases rom b with ⟨-, he⟩ | ⟨-, he⟩
    · rw [he]; exact ⟨Nat.zero_le _, Nat.zero_le _⟩
    · rw [he]; exact timersNotAbove_refl s

/-- A step raises no timer, or it executes an instruction on a state with the timers of `s`. -/
theorem step_timers {s t : State} (h : step s = .next t) :
    TimersNotAbove s t ∨ ∃ i u, runsInstruction s i ∧ exec i u = .next t ∧ u.DT = s.DT ∧ u.ST = s.ST := by
  rcases step_cases h with ⟨u, hu, he⟩ | ⟨e, es, -, hstep, he⟩
  · have hfields : u.status = s.status ∧ u.pc = s.pc ∧ u.fetchWord = s.fetchWord ∧ u.DT = s.DT ∧ u.ST = s.ST := by
      rcases hu with ⟨-, rfl⟩ | ⟨es, -, rfl⟩ <;> exact ⟨rfl, rfl, rfl, rfl, rfl⟩
    obtain ⟨hstat, hpcu, hwordu, hDT, hST⟩ := hfields
    cases he with
    | idle | fetchFault | reserved => exact .inl ⟨(congrArg _ hDT).le, (congrArg _ hST).le⟩
    | instr hstatus hpc hword hexec =>
      rw [hstat] at hstatus
      rw [hpcu] at hpc
      rw [hwordu] at hword
      exact .inr ⟨_, u, ⟨hstatus, ⟨u, hu⟩, by omega, hword⟩, hexec, hDT, hST⟩
  · exact .inl (perform_timersNotAbove (s := s.setAgenda es) hstep he)

/-- Settles O53: a step that raises a timer executes an instruction that changes it, and only FX15 or FX18 does. -/
theorem timersRiseOnlyByTheirInstruction : Obligations.TimersRiseOnlyByTheirInstruction := by
  refine ⟨fun i s t h => exec_timers h, fun s t h => ?_⟩
  rcases step_timers h with ⟨hDT, hST⟩ | ⟨i, u, hruns, hexec, hDT, hST⟩
  · exact ⟨fun hlt => absurd hlt (by omega), fun hlt => absurd hlt (by omega)⟩
  · obtain ⟨hsdt, hsst⟩ := exec_timers hexec
    rw [hDT] at hsdt
    rw [hST] at hsst
    constructor
    · intro hlt
      obtain ⟨x, rfl⟩ := hsdt fun heq => by rw [heq] at hlt; exact lt_irrefl _ hlt
      exact ⟨x, hruns⟩
    · intro hlt
      obtain ⟨x, rfl⟩ := hsst fun heq => by rw [heq] at hlt; exact lt_irrefl _ hlt
      exact ⟨x, hruns⟩

/-! ### Reset (R34) -/

/-- Settles O18: reset is the state after a `Load` of the empty image. -/
theorem resetMeetsInvariant : Obligations.ResetMeetsInvariant :=
  inv_loadImage State.powerOn false (rom := []) (by decide)

theorem State.reset_cell (r : Fin 32) (c : Fin 64) : State.reset.cell r c = false :=
  State.cell_clearCells State.reset r c

/-- Nothing is listed at reset, so the first 80 addresses read as the font that `Load` writes (R62, R283). -/
theorem State.reset_memByte_font {a : Nat} (h : a < 80) : State.reset.memByte a = Config.font a :=
  if_pos h

/-- Settles O19, value by value. -/
theorem resetValues : Obligations.ResetValues :=
  ⟨State.reset_reg, rfl, rfl, by decide, rfl, rfl, rfl, State.reset_cell, fun _ => State.reset_memByte_font, rfl⟩

end Sys2Proof.Machine
end

section
/-! PROOFS. Family `20_memory.md`: which instructions write memory and where (R61), the big-endian, bounds-checked fetch
(R66), and that stored bytes are the ones the next fetch reads (R73). -/

namespace Sys2Proof.Machine

open Sys2Proof.Claims

/-! ### Fetch (R66) -/

/-- The first byte of a word is its high byte (R66). -/
theorem toNat_wordOfBytes (hi lo : Byte) : (wordOfBytes hi lo).toNat = hi.toNat * 256 + lo.toNat := by
  have happend : (wordOfBytes hi lo).toNat = hi.toNat <<< 8 ||| lo.toNat := BitVec.toNat_append hi lo
  rw [happend, ← Nat.shiftLeft_add_eq_or_of_lt lo.isLt, Nat.shiftLeft_eq]

theorem State.toNat_fetchWord (s : State) :
    s.fetchWord.toNat = (s.memByte s.pc.toNat).toNat * 256 + (s.memByte (s.pc.toNat + 1)).toNat :=
  toNat_wordOfBytes _ _

/-- The state that a due `Step` acts on fetches as the state before it does. -/
theorem stepDue_fetch {s u : State} (hu : stepDue s u) : u.pc = s.pc ∧ u.fetchWord = s.fetchWord := by
  rcases hu with ⟨-, rfl⟩ | ⟨es, -, rfl⟩ <;> exact ⟨rfl, rfl⟩

/-- In `Running`, a due `Step` fetches and runs, whether it stands on the agenda or follows an empty one. -/
theorem step_of_stepDue {s u : State} (hu : stepDue s u) (hr : s.status = .running) : step s = runStep u := by
  rcases hu with ⟨hnil, rfl⟩ | ⟨es, hcons, rfl⟩
  · rw [step_of_agenda_nil hnil, onlySteps_running hr]
  · rw [step_of_agenda_step hcons, stepEvent_running (s := s.setAgenda es) hr]

theorem step_of_stepDue_in_memory {s u : State} (hu : stepDue s u) (hr : s.status = .running)
    (hpc : s.pc.toNat + 1 < 4096) : step s = runWord s.fetchWord u := by
  obtain ⟨hupc, huword⟩ := stepDue_fetch hu
  rw [step_of_stepDue hu hr, runStep_in_memory (by rw [hupc]; omega), huword]

theorem step_of_stepDue_out_of_memory {s u : State} (hu : stepDue s u) (hr : s.status = .running)
    (hpc : 4096 ≤ s.pc.toNat + 1) : step s = .next (u.faultedWith (.programCounterOutOfBounds s.pc)) := by
  obtain ⟨hupc, -⟩ := stepDue_fetch hu
  rw [step_of_stepDue hu hr, runStep_fetch_fault (by rw [hupc]; omega), hupc]
  rfl

/-- Settles O9: by the bound on `pc`; the word is `fetchWord`, and it decodes to an instruction or is reserved. -/
theorem fetchIsBigEndianAndBoundsChecked : Obligations.FetchIsBigEndianAndBoundsChecked := by
  intro s u hu hr
  refine ⟨step_of_stepDue_out_of_memory hu hr, fun hpc => ⟨s.fetchWord, s.toNat_fetchWord, ?_, ?_⟩⟩
  · intro i hi
    rw [step_of_stepDue_in_memory hu hr hpc, runWord_ok hi]
  · intro g hg
    obtain ⟨hupc, -⟩ := stepDue_fetch hu
    rw [step_of_stepDue_in_memory hu hr hpc, runWord_error hg, ← hupc]
    rfl

/-! ### Which instructions write memory (R61) -/

/-- How many bytes from `I` upward an instruction stores (R61): three digits for FX33, `X + 1` registers for FX55. -/
def storeCount : Instr → Nat
  | .bcd _ => 3
  | .stm x => x.val + 1
  | _ => 0

/-- A guarded access writes no byte outside a range when the access itself does not: the other answer is a fault. -/
theorem withDataRange_keepsMemoryOutside {base count n : Nat} {s t : State} {run : State → State}
    (h : withDataRange n s run = .next t) (hrun : KeepsMemoryOutside base count s (run s)) :
    KeepsMemoryOutside base count s t := by
  rcases withDataRange_cases n s run with ⟨-, he⟩ | ⟨-, he⟩
  · cases he.symm.trans h; exact hrun
  · cases he.symm.trans h; exact fun _ _ => rfl

theorem storeDigits_keepsMemoryOutside (s : State) (b : Byte) :
    KeepsMemoryOutside s.I.toNat 3 s (s.storeDigits b) := by
  intro a ha
  rw [State.memByte_storeDigits, if_neg (by omega), if_neg (by omega), if_neg (by omega)]

theorem storeRegs_keepsMemoryOutside (s : State) {n : Nat} (hn : n ≤ 16) :
    KeepsMemoryOutside s.I.toNat n s (s.storeRegs n) := by
  intro a ha
  rw [State.memByte_storeRegs s hn, if_neg ha]

theorem withKey_keepsMemory {x : RegIdx} {s t : State} {run : Fin 16 → State} (h : withKey x s run = .next t)
    (hrun : ∀ k, KeepsMemory s (run k)) : KeepsMemory s t := by
  rcases withKey_cases x s run with ⟨_, he⟩ | ⟨_, he⟩
  · cases he.symm.trans h; exact hrun _
  · cases he.symm.trans h; exact fun _ => rfl

/-- An instruction writes no byte outside the `storeCount` bytes at `I`, whether it completes or faults. -/
theorem exec_keepsMemoryOutside {i : Instr} {s t : State} (h : exec i s = .next t) :
    KeepsMemoryOutside s.I.toNat (storeCount i) s t := by
  cases i with
  | bcd x =>
    rw [exec, execBcd] at h
    exact withDataRange_keepsMemoryOutside h (storeDigits_keepsMemoryOutside s (s.reg x))
  | stm x =>
    rw [exec, execStm] at h
    exact withDataRange_keepsMemoryOutside h (storeRegs_keepsMemoryOutside s x.isLt)
  | ldm x =>
    rw [exec, execLdm] at h
    refine withDataRange_keepsMemoryOutside h fun a _ => ?_
    rw [State.loadRegs_eq]; rfl
  | drw x y n =>
    rw [exec, execDrw] at h
    refine withDataRange_keepsMemoryOutside h fun a _ => ?_
    rw [State.drawRows_eq]; rfl
  | skp x =>
    rw [exec, execSkp] at h
    exact fun a _ => withKey_keepsMemory h (fun _ _ => rfl) a
  | sknp x =>
    rw [exec, execSknp] at h
    exact fun a _ => withKey_keepsMemory h (fun _ _ => rfl) a
  | ret =>
    rw [exec, execRet] at h
    split at h <;> (cases h; exact fun _ _ => rfl)
  | call nnn =>
    rw [exec, execCall] at h
    split at h <;> (cases h; exact fun _ _ => rfl)
  | wkey x =>
    rw [exec, execWkey] at h
    split at h <;> (cases h; exact fun _ _ => rfl)
  | _ => cases h; exact fun _ _ => rfl

/-- Settles O42: a byte that differs lies among the `storeCount` bytes at `I`, and only FX33 and FX55 have any. -/
theorem onlyTwoInstructionsWriteMemory : Obligations.OnlyTwoInstructionsWriteMemory := by
  intro i s t a h hne
  have hrange : s.I.toNat ≤ a ∧ a < s.I.toNat + storeCount i := by
    by_contra hout
    exact hne (exec_keepsMemoryOutside h a hout)
  obtain ⟨hlo, hhi⟩ := hrange
  cases i with
  | bcd x => exact .inl ⟨x, rfl, hlo, Nat.le_of_lt_succ hhi⟩
  | stm x => exact .inr ⟨x, rfl, hlo, Nat.le_of_lt_succ hhi⟩
  | _ => exact absurd hhi (Nat.not_lt.2 hlo)

/-! ### Stored bytes are fetched next (R73) -/

theorem toNat_hundredsDigit (b : Byte) : (hundredsDigit b).toNat = b.toNat / 100 := by
  rw [hundredsDigit, BitVec.toNat_ofNat]; omega

theorem toNat_tensDigit (b : Byte) : (tensDigit b).toNat = b.toNat / 10 % 10 := by
  rw [tensDigit, BitVec.toNat_ofNat]; omega

theorem toNat_onesDigit (b : Byte) : (onesDigit b).toNat = b.toNat % 10 := by
  rw [onesDigit, BitVec.toNat_ofNat]; omega

theorem exec_bcd_in_memory {s : State} (x : RegIdx) (h : s.I.toNat + 2 < 4096) :
    exec (.bcd x) s = .next (s.storeDigits (s.reg x)).advance := by
  rw [exec, execBcd]
  exact withDataRange_ok _ (.inr (by omega))

theorem exec_stm_in_memory {s : State} {x : RegIdx} (h : s.I.toNat + x.val < 4096) :
    exec (.stm x) s = .next (s.storeRegs (x.val + 1)).advance := by
  rw [exec, execStm]
  exact withDataRange_ok _ (.inr (by omega))

/-- The byte at `I + z` after FX55's loop is register `z` (R186). -/
theorem State.memByte_storeRegs_reg (s : State) {n : Nat} (hn : n ≤ 16) {z : RegIdx} (hz : z.val < n) :
    (s.storeRegs n).memByte (s.I.toNat + z.val) = s.reg z := by
  rw [State.memByte_storeRegs s hn, if_pos (by omega), Nat.add_sub_cancel_left, regOfNat_fin]

/-- The two bytes at `pc` are the word fetched next, read at the moment of the step. -/
theorem fetchesNext_of_bytes {t : State} {p hi lo : Nat} (hpc : t.pc.toNat = p) (hp : p + 1 < 4096)
    (hhi : (t.memByte p).toNat = hi) (hlo : (t.memByte (p + 1)).toNat = lo) : fetchesNext t (hi * 256 + lo) := by
  subst hpc hhi hlo
  exact ⟨t.toNat_fetchWord, fun u hu hr => step_of_stepDue_in_memory hu hr hp⟩

/-- After the advance of a store the fetch is at `pc + 2`, which has not wrapped when it is an address of memory. -/
theorem fetchesNext_advance {s t : State} {p hi lo : Nat} (hpc : t.pc = s.pc) (hp : s.pc.toNat + 2 = p)
    (hend : p + 1 < 4096) (hhi : (t.memByte p).toNat = hi) (hlo : (t.memByte (p + 1)).toNat = lo) :
    fetchesNext t.advance (hi * 256 + lo) := by
  refine fetchesNext_of_bytes ?_ hend hhi hlo
  rw [State.advance_pc, hpc]
  bv_omega

theorem stm_fetchesNext {s : State} {x z y : RegIdx} (hI : s.I.toNat + x.val < 4096) (hy : y.val = z.val + 1)
    (hyx : y ≤ x) (hpc : s.pc.toNat + 2 = s.I.toNat + z.val) :
    fetchesNext (s.storeRegs (x.val + 1)).advance ((s.reg z).toNat * 256 + (s.reg y).toNat) := by
  have hle : y.val ≤ x.val := hyx
  have hkeep : (s.storeRegs (x.val + 1)).pc = s.pc := by rw [State.storeRegs_eq]
  refine fetchesNext_advance hkeep hpc (by omega) ?_ ?_
  · rw [State.memByte_storeRegs_reg s x.isLt (by omega)]
  · rw [Nat.add_assoc, ← hy, State.memByte_storeRegs_reg s x.isLt (by omega)]

theorem bcd_fetchesNext_first {s : State} (b : Byte) (hI : s.I.toNat + 2 < 4096) (hpc : s.pc.toNat + 2 = s.I.toNat) :
    fetchesNext (s.storeDigits b).advance (b.toNat / 100 * 256 + b.toNat / 10 % 10) := by
  refine fetchesNext_advance rfl hpc (by omega) ?_ ?_
  · rw [State.memByte_storeDigits, if_neg (by omega), if_neg (by omega), if_pos rfl, toNat_hundredsDigit]
  · rw [State.memByte_storeDigits, if_neg (by omega), if_pos rfl, toNat_tensDigit]

theorem bcd_fetchesNext_second {s : State} (b : Byte) (hI : s.I.toNat + 2 < 4096)
    (hpc : s.pc.toNat + 2 = s.I.toNat + 1) :
    fetchesNext (s.storeDigits b).advance (b.toNat / 10 % 10 * 256 + b.toNat % 10) := by
  refine fetchesNext_advance rfl hpc (by omega) ?_ ?_
  · rw [State.memByte_storeDigits, if_neg (by omega), if_pos rfl, toNat_tensDigit]
  · rw [State.memByte_storeDigits, if_pos rfl, toNat_onesDigit]

/-- Settles O43: a store whose range lies in memory completes, and each pair of adjacent stored bytes is then the word at
`pc + 2` if it stands there. -/
theorem storedBytesAreFetchedNext : Obligations.StoredBytesAreFetchedNext := by
  intro s t x
  refine ⟨fun z y hI h hy hyx hpc => ?_, fun hI h hpc => ?_, fun hI h hpc => ?_⟩
  · cases (exec_stm_in_memory hI).symm.trans h
    exact stm_fetchesNext hI hy hyx hpc
  · cases (exec_bcd_in_memory x hI).symm.trans h
    exact bcd_fetchesNext_first (s.reg x) hI hpc
  · cases (exec_bcd_in_memory x hI).symm.trans h
    exact bcd_fetchesNext_second (s.reg x) hI hpc

end Sys2Proof.Machine
end

section
/-! PROOFS. Family `30_encoding.md`: the decoder and the encoder are inverse to each other, the decoder rejects exactly the
reserved words, and the opcode table describes both. Each statement rests on what the decoder answers (`decode_answers`) or
on the row that an instruction has in the table (`Instr.row`). -/

namespace Sys2Proof

open Sys2Proof.Claims

/-! ### Fields and packed words as numbers (R92, R93) -/

theorem toNat_append_eq_add {m n : Nat} (x : BitVec m) (y : BitVec n) : (x ++ y).toNat = x.toNat * 2 ^ n + y.toNat := by
  rw [BitVec.toNat_append, ← Nat.shiftLeft_add_eq_or_of_lt y.isLt, Nat.shiftLeft_eq]

@[simp] theorem toNat_packAddr (op : BitVec 4) (nnn : Addr) : (packAddr op nnn).toNat = op.toNat * 4096 + nnn.toNat :=
  toNat_append_eq_add op nnn

@[simp] theorem toNat_packRegImm (op : BitVec 4) (x : RegIdx) (nn : Byte) :
    (packRegImm op x nn).toNat = op.toNat * 4096 + x.val * 256 + nn.toNat := by
  have h : (packRegImm op x nn).toNat = (op ++ regBits x).toNat * 256 + nn.toNat := toNat_append_eq_add _ nn
  have hx : (op ++ regBits x).toNat = op.toNat * 16 + x.val := toNat_append_eq_add op (regBits x)
  rw [h, hx]; omega

@[simp] theorem toNat_packRegReg (op : BitVec 4) (x y : RegIdx) (n : Nibble) :
    (packRegReg op x y n).toNat = op.toNat * 4096 + x.val * 256 + y.val * 16 + n.toNat := by
  have h : (packRegReg op x y n).toNat = (op ++ regBits x ++ regBits y).toNat * 16 + n.toNat := toNat_append_eq_add _ n
  have hy : (op ++ regBits x ++ regBits y).toNat = (op ++ regBits x).toNat * 16 + y.val :=
    toNat_append_eq_add _ (regBits y)
  have hx : (op ++ regBits x).toNat = op.toNat * 16 + x.val := toNat_append_eq_add op (regBits x)
  rw [h, hy, hx]; omega

theorem toNat_groupOf (w : Word) : (groupOf w).toNat = w.toNat / 4096 := by
  rw [groupOf, BitVec.extractLsb'_toNat, Nat.shiftRight_eq_div_pow]; omega

theorem val_fieldX (w : Word) : (fieldX w).val = w.toNat / 256 % 16 := by
  have h := BitVec.extractLsb'_toNat 8 4 w
  rwa [Nat.shiftRight_eq_div_pow] at h

theorem val_fieldY (w : Word) : (fieldY w).val = w.toNat / 16 % 16 := by
  have h := BitVec.extractLsb'_toNat 4 4 w
  rwa [Nat.shiftRight_eq_div_pow] at h

theorem toNat_fieldN (w : Word) : (fieldN w).toNat = w.toNat % 16 := BitVec.extractLsb'_toNat 0 4 w

theorem toNat_fieldNN (w : Word) : (fieldNN w).toNat = w.toNat % 256 := BitVec.extractLsb'_toNat 0 8 w

theorem toNat_fieldNNN (w : Word) : (fieldNNN w).toNat = w.toNat % 4096 := BitVec.extractLsb'_toNat 0 12 w

/-! ### A word is packed from its own fields -/

theorem packAddr_fields {w : Word} {op : BitVec 4} (hop : (groupOf w).toNat = op.toNat) :
    packAddr op (fieldNNN w) = w := by
  apply BitVec.eq_of_toNat_eq
  rw [toNat_packAddr, ← hop, toNat_groupOf, toNat_fieldNNN]
  omega

theorem packRegImm_fields {w : Word} {op : BitVec 4} (hop : (groupOf w).toNat = op.toNat) :
    packRegImm op (fieldX w) (fieldNN w) = w := by
  apply BitVec.eq_of_toNat_eq
  rw [toNat_packRegImm, ← hop, toNat_groupOf, val_fieldX, toNat_fieldNN]
  omega

theorem packRegReg_fields {w : Word} {op : BitVec 4} (hop : (groupOf w).toNat = op.toNat) :
    packRegReg op (fieldX w) (fieldY w) (fieldN w) = w := by
  apply BitVec.eq_of_toNat_eq
  rw [toNat_packRegReg, ← hop, toNat_groupOf, val_fieldX, val_fieldY, toNat_fieldN]
  omega

theorem packRegImm_of_fieldNN {w : Word} {op : BitVec 4} {nn : Byte} (hop : (groupOf w).toNat = op.toNat)
    (hnn : fieldNN w = nn) : packRegImm op (fieldX w) nn = w :=
  hnn ▸ packRegImm_fields hop

theorem packRegReg_of_fieldN {w : Word} {op : BitVec 4} {n : Nibble} (hop : (groupOf w).toNat = op.toNat)
    (hn : (fieldN w).toNat = n.toNat) : packRegReg op (fieldX w) (fieldY w) n = w :=
  BitVec.eq_of_toNat_eq hn ▸ packRegReg_fields hop

/-! ### What the decoder answers (R98, R100) -/

/-- What `decode` may answer on the word `w`: an instruction whose encoding is `w`, or a group that lists `w` as
reserved. -/
inductive Answers (w : Word) : Except ReservedWord Instr → Prop
  | instr {i : Instr} (h : encode i = w) : Answers w (.ok i)
  | reserved {g : ReservedWord} (h : reservedIn g w.toNat) : Answers w (.error g)

theorem decodeGroup0_answers {w : Word} (hop : (groupOf w).toNat = 0x0) : Answers w (decodeGroup0 w) := by
  unfold decodeGroup0
  split
  · next h => exact .instr h.symm
  split
  · next h => exact .instr h.symm
  · next hcls hret =>
    refine .reserved ⟨toNat_groupOf w ▸ hop, fun h => hcls ?_, fun h => hret ?_⟩ <;> exact BitVec.eq_of_toNat_eq h

theorem decodeGroup8_answers {w : Word} (hop : (groupOf w).toNat = 0x8) : Answers w (decodeGroup8 w) := by
  unfold decodeGroup8
  dsimp only
  split
  case h_10 =>
    have hlt := (fieldN w).isLt
    simp only [imp_false, toNat_fieldN] at *
    refine .reserved ⟨toNat_groupOf w ▸ hop, ?_⟩
    simp only [List.mem_cons, List.not_mem_nil, or_false]
    omega
  all_goals next hn => exact .instr (packRegReg_of_fieldN hop hn)

theorem decodeGroupE_answers {w : Word} (hop : (groupOf w).toNat = 0xE) : Answers w (decodeGroupE w) := by
  unfold decodeGroupE
  dsimp only
  iterate 2
    split
    · next hnn => exact .instr (packRegImm_of_fieldNN hop hnn)
  refine .reserved ⟨toNat_groupOf w ▸ hop, ?_⟩
  rw [← toNat_fieldNN]
  simp_all [BitVec.toNat_eq]

theorem decodeGroupF_answers {w : Word} (hop : (groupOf w).toNat = 0xF) : Answers w (decodeGroupF w) := by
  unfold decodeGroupF
  dsimp only
  iterate 9
    split
    · next hnn => exact .instr (packRegImm_of_fieldNN hop hnn)
  refine .reserved ⟨toNat_groupOf w ▸ hop, ?_⟩
  rw [← toNat_fieldNN]
  simp_all [BitVec.toNat_eq]

/-- By the group of the word: the case `h_k` is the group `k - 1`. -/
theorem decode_answers (w : Word) : Answers w (decode w) := by
  unfold decode
  split
  case h_1 hop => exact decodeGroup0_answers hop
  case h_9 hop => exact decodeGroup8_answers hop
  case h_15 hop => exact decodeGroupE_answers hop
  case h_6 hop | h_10 hop =>
    split
    · next hn => exact .instr (packRegReg_of_fieldN hop (congrArg BitVec.toNat hn))
    · next hn =>
      refine .reserved ⟨toNat_groupOf w ▸ hop, fun h => hn ?_⟩
      exact BitVec.eq_of_toNat_eq ((toNat_fieldN w).trans h)
  case h_2 hop | h_3 hop | h_11 hop | h_12 hop => exact .instr (packAddr_fields hop)
  case h_4 hop | h_5 hop | h_7 hop | h_8 hop | h_13 hop => exact .instr (packRegImm_fields hop)
  case h_14 hop => exact .instr (packRegReg_fields hop)
  case h_16 =>
    have hlt := (groupOf w).isLt
    simp only [imp_false] at *
    exact decodeGroupF_answers (by omega)

/-- A reserved word is rejected under its group. -/
theorem decode_of_reservedIn {w : Word} {g : ReservedWord} (h : reservedIn g w.toNat) : decode w = .error g := by
  cases g
  all_goals
    simp only [reservedIn, ← toNat_groupOf, ← toNat_fieldN, ← toNat_fieldNN] at h
  case group0 =>
    obtain ⟨hop, hcls, hret⟩ := h
    simp [decode, hop, decodeGroup0, BitVec.toNat_eq, hcls, hret]
  case group5 | group9 =>
    obtain ⟨hop, hn⟩ := h
    simp [decode, hop, BitVec.toNat_eq, hn]
  case group8 =>
    obtain ⟨hop, hn⟩ := h
    simp only [List.mem_cons, List.not_mem_nil, or_false] at hn
    rcases hn with hn | hn | hn | hn | hn | hn | hn <;> simp [decode, hop, decodeGroup8, hn]
  case groupE | groupF =>
    obtain ⟨hop, hnn⟩ := h
    simp only [List.mem_cons, List.not_mem_nil, or_false, not_or] at hnn
    simp [decode, hop, decodeGroupE, decodeGroupF, BitVec.toNat_eq, hnn]

/-! ### Encoding and decoding (R91, R96, R98) -/

theorem decode_encode (i : Instr) : decode (encode i) = .ok i := by
  cases i with
  | cls | ret => rfl
  | jp | call | lda | jpv0 | sei | snei | ldi | addi | rnd | se | sne | drw => simp [encode, decode]
  | skp | sknp => simp [encode, decode, decodeGroupE]
  | gdt | wkey | sdt | sst | adda | glyph | bcd | stm | ldm => simp [encode, decode, decodeGroupF]
  | _ => simp [encode, decode, decodeGroup8]

theorem Instr.wellFormed_eq_true (i : Instr) : i.wellFormed = true := by
  cases i with
  | cls | ret => rfl
  | jp nnn | call nnn | lda nnn | jpv0 nnn => exact Laws.WellFormed.jp nnn
  | sei x nn | snei x nn | ldi x nn | addi x nn | rnd x nn => exact Laws.WellFormed.sei x nn
  | drw x y n => exact Laws.WellFormed.drw x y n
  | se x y | sne x y | mov x y | or x y | and x y | xor x y | add x y | sub x y | subn x y =>
    exact Laws.WellFormed.se x y
  | shr x y | shl x y | skp x | sknp x | gdt x | wkey x | sdt x | sst x | adda x | glyph x | bcd x | stm x | ldm x =>
    exact Laws.WellFormed.skp x

/-- The decoder answers an instruction on its encoding alone. -/
theorem encode_of_decode_ok {w : Word} {i : Instr} (h : decode w = .ok i) : encode i = w := by
  have hw := decode_answers w
  rw [h] at hw
  cases hw with
  | instr henc => exact henc

/-- Settles O1, by the layout of each instruction's word: its fields are read back as they were packed. -/
theorem decodeOfEncodeIsIdentity : Obligations.DecodeOfEncodeIsIdentity :=
  fun i => ⟨i.wellFormed_eq_true, decode_encode i⟩

/-- Settles O2, by what the decoder answers. -/
theorem encodeOfDecodeIsIdentity : Obligations.EncodeOfDecodeIsIdentity :=
  fun _ _ h => encode_of_decode_ok h

/-- Settles O5: the decoder rejects a word only under a group that lists it, and rejects each word that a group lists. -/
theorem decodeRejectsExactlyReservedWords : Obligations.DecodeRejectsExactlyReservedWords := by
  intro w g
  refine ⟨fun h => ?_, decode_of_reservedIn⟩
  have hw := decode_answers w
  rw [h] at hw
  cases hw with
  | reserved hres => exact hres

/-- Settles O6, word by word. -/
theorem sampleWordsDecode : Obligations.SampleWordsDecode :=
  ⟨rfl, rfl, rfl, rfl, rfl, rfl, rfl, rfl, rfl, rfl, rfl, rfl⟩

/-! ### The bits that select a row (R96) -/

/-- The bits the decoder tests on the words of a group (R98): the mask of each of the group's rows. -/
def testedBits (w : Word) : Word :=
  match (groupOf w).toNat with
  | 0x0 => 0xFFFF
  | 0x5 | 0x8 | 0x9 => 0xF00F
  | 0xE | 0xF => 0xF0FF
  | _ => 0xF000

theorem groupOf_and (v w : Word) : groupOf (v &&& w) = groupOf v &&& groupOf w := BitVec.extractLsb'_and

theorem fieldN_and (v w : Word) : fieldN (v &&& w) = fieldN v &&& fieldN w := BitVec.extractLsb'_and

theorem fieldNN_and (v w : Word) : fieldNN (v &&& w) = fieldNN v &&& fieldNN w := BitVec.extractLsb'_and

theorem groupOf_testedBits (w : Word) : groupOf (testedBits w) = 0xF := by
  unfold testedBits; split <;> rfl

theorem eq_of_and_allOnes_eq {n : Nat} {x y : BitVec n} (h : x &&& BitVec.allOnes n = y &&& BitVec.allOnes n) :
    x = y := by
  rwa [BitVec.and_allOnes, BitVec.and_allOnes] at h

theorem groupOf_congr {v w : Word} (h : w &&& testedBits v = v &&& testedBits v) : groupOf w = groupOf v := by
  have hg := congrArg groupOf h
  rw [groupOf_and, groupOf_and, groupOf_testedBits] at hg
  exact eq_of_and_allOnes_eq hg

theorem fieldN_congr {v w : Word} (h : w &&& 0xF00F = v &&& 0xF00F) : fieldN w = fieldN v := by
  have hn := congrArg fieldN h
  rw [fieldN_and, fieldN_and] at hn
  exact eq_of_and_allOnes_eq hn

theorem fieldNN_congr {v w : Word} (h : w &&& 0xF0FF = v &&& 0xF0FF) : fieldNN w = fieldNN v := by
  have hnn := congrArg fieldNN h
  rw [fieldNN_and, fieldNN_and] at hnn
  exact eq_of_and_allOnes_eq hnn

/-- Words that agree on the tested bits decode to the same mnemonic, or are both reserved in the same group: by the group,
as in `decode_answers`; a group with a selector field is decoded by that field, which the tested bits contain. -/
theorem map_mnemonic_decode_congr {v w : Word} (h : w &&& testedBits v = v &&& testedBits v) :
    (decode w).map Instr.mnemonic = (decode v).map Instr.mnemonic := by
  unfold decode
  rw [groupOf_congr h]
  split
  case h_1 hop =>
    simp only [testedBits, hop] at h
    rw [eq_of_and_allOnes_eq h]
  case h_6 hop | h_10 hop =>
    simp only [testedBits, hop] at h
    rw [fieldN_congr h]
    split <;> rfl
  case h_9 hop =>
    simp only [testedBits, hop] at h
    simp only [decodeGroup8, fieldN_congr h]
    split <;> rfl
  case h_15 hop =>
    simp only [testedBits, hop] at h
    simp only [decodeGroupE, fieldNN_congr h]
    split_ifs <;> rfl
  case h_16 =>
    have hop : (groupOf v).toNat = 0xF := by
      have hlt := (groupOf v).isLt
      simp only [imp_false] at *
      omega
    simp only [testedBits, hop] at h
    simp only [decodeGroupF, fieldNN_congr h]
    split_ifs <;> rfl
  all_goals rfl

/-- Each row's mask is the bits tested on its pattern, and the pattern, which has no other bits, decodes to the row's
instruction. -/
theorem opcodeTable_decode : ∀ r ∈ opcodeTable, testedBits r.pattern = r.mask ∧ r.pattern &&& r.mask = r.pattern ∧
    (decode r.pattern).map Instr.mnemonic = .ok r.mnemonic := by
  decide

/-! ### A word under a row's mask -/

/-- A field over which a mask is all ones is kept. -/
theorem toNat_and_field_of_ones {w m : Word} {start len : Nat} (h : m.extractLsb' start len = BitVec.allOnes len) :
    (w &&& m).toNat >>> start % 2 ^ len = w.toNat >>> start % 2 ^ len := by
  rw [← BitVec.extractLsb'_toNat, ← BitVec.extractLsb'_toNat, BitVec.extractLsb'_and, h, BitVec.and_allOnes]

/-- A field over which a mask is all zeros is cleared. -/
theorem toNat_and_field_of_zeros {w m : Word} {start len : Nat} (h : m.extractLsb' start len = 0#len) :
    (w &&& m).toNat >>> start % 2 ^ len = 0 := by
  rw [← BitVec.extractLsb'_toNat, BitVec.extractLsb'_and, h, BitVec.and_zero, BitVec.toNat_ofNat, Nat.zero_mod]

theorem toNat_and_F000 (w : Word) : (w &&& 0xF000#16).toNat = w.toNat / 4096 * 4096 := by
  have hop := toNat_and_field_of_ones (w := w) (m := 0xF000#16) (start := 12) (len := 4) rfl
  have hlow := toNat_and_field_of_zeros (w := w) (m := 0xF000#16) (start := 0) (len := 12) rfl
  omega

theorem toNat_and_F00F (w : Word) : (w &&& 0xF00F#16).toNat = w.toNat / 4096 * 4096 + w.toNat % 16 := by
  have hop := toNat_and_field_of_ones (w := w) (m := 0xF00F#16) (start := 12) (len := 4) rfl
  have hxy := toNat_and_field_of_zeros (w := w) (m := 0xF00F#16) (start := 4) (len := 8) rfl
  have hn := toNat_and_field_of_ones (w := w) (m := 0xF00F#16) (start := 0) (len := 4) rfl
  omega

theorem toNat_and_F0FF (w : Word) : (w &&& 0xF0FF#16).toNat = w.toNat / 4096 * 4096 + w.toNat % 256 := by
  have hop := toNat_and_field_of_ones (w := w) (m := 0xF0FF#16) (start := 12) (len := 4) rfl
  have hx := toNat_and_field_of_zeros (w := w) (m := 0xF0FF#16) (start := 8) (len := 4) rfl
  have hnn := toNat_and_field_of_ones (w := w) (m := 0xF0FF#16) (start := 0) (len := 8) rfl
  omega

@[simp] theorem packAddr_and_F000 (op : BitVec 4) (nnn : Addr) : packAddr op nnn &&& 0xF000#16 = packAddr op 0#12 := by
  apply BitVec.eq_of_toNat_eq
  rw [toNat_and_F000, toNat_packAddr, toNat_packAddr, BitVec.toNat_zero]
  omega

@[simp] theorem packRegImm_and_F000 (op : BitVec 4) (x : RegIdx) (nn : Byte) :
    packRegImm op x nn &&& 0xF000#16 = packRegImm op 0 0#8 := by
  apply BitVec.eq_of_toNat_eq
  rw [toNat_and_F000, toNat_packRegImm, toNat_packRegImm, BitVec.toNat_zero]
  omega

@[simp] theorem packRegImm_and_F0FF (op : BitVec 4) (x : RegIdx) (nn : Byte) :
    packRegImm op x nn &&& 0xF0FF#16 = packRegImm op 0 nn := by
  apply BitVec.eq_of_toNat_eq
  rw [toNat_and_F0FF, toNat_packRegImm, toNat_packRegImm]
  omega

@[simp] theorem packRegReg_and_F000 (op : BitVec 4) (x y : RegIdx) (n : Nibble) :
    packRegReg op x y n &&& 0xF000#16 = packRegReg op 0 0 0#4 := by
  apply BitVec.eq_of_toNat_eq
  rw [toNat_and_F000, toNat_packRegReg, toNat_packRegReg, BitVec.toNat_zero]
  omega

@[simp] theorem packRegReg_and_F00F (op : BitVec 4) (x y : RegIdx) (n : Nibble) :
    packRegReg op x y n &&& 0xF00F#16 = packRegReg op 0 0 n := by
  apply BitVec.eq_of_toNat_eq
  rw [toNat_and_F00F, toNat_packRegReg, toNat_packRegReg]
  omega

/-! ### The row of an instruction (R96) -/

/-- The row of the opcode table an instruction is of, read off its encoding. -/
def Instr.row (i : Instr) : OpcodeRow :=
  ⟨i.mnemonic, testedBits (encode i), encode i &&& testedBits (encode i), i.asmForm⟩

theorem Instr.row_mem (i : Instr) : i.row ∈ opcodeTable := by
  cases i with
  | cls | ret => decide
  | _ =>
    simp only [row, mnemonic, asmForm, encode, testedBits, BitVec.ofNat_eq_ofNat, BitVec.reduceToNat, groupOf_packAddr,
      groupOf_packRegImm, groupOf_packRegReg, packAddr_and_F000, packRegImm_and_F000, packRegImm_and_F0FF,
      packRegReg_and_F000, packRegReg_and_F00F]
    decide

theorem opcodeTable_mnemonic_inj {r q : OpcodeRow} (hr : r ∈ opcodeTable) (hq : q ∈ opcodeTable)
    (h : r.mnemonic = q.mnemonic) : r = q :=
  List.inj_on_of_nodup_map (f := OpcodeRow.mnemonic) (by decide) hr hq h

theorem Instr.eq_row {i : Instr} {r : OpcodeRow} (hr : r ∈ opcodeTable) (h : r.mnemonic = i.mnemonic) : r = i.row :=
  opcodeTable_mnemonic_inj hr i.row_mem h

/-- A word that agrees with a row's pattern on the row's mask decodes to the pattern's mnemonic; conversely the mask and
the pattern of an instruction's row are read off its encoding. -/
theorem and_mask_eq_pattern_iff {w : Word} {r : OpcodeRow} (hr : r ∈ opcodeTable) :
    w &&& r.mask = r.pattern ↔ ∃ i : Instr, decode w = .ok i ∧ i.mnemonic = r.mnemonic := by
  constructor
  · intro h
    obtain ⟨hmask, hpat, hdec⟩ := opcodeTable_decode r hr
    have hm : (decode w).map Instr.mnemonic = .ok r.mnemonic := by
      rw [← hdec]
      apply map_mnemonic_decode_congr
      rw [hmask, h, hpat]
    cases hw : decode w with
    | ok i => rw [hw] at hm; exact ⟨i, rfl, Except.ok.inj hm⟩
    | error g => rw [hw] at hm; cases hm
  · rintro ⟨i, hi, hm⟩
    rw [Instr.eq_row hr hm.symm, ← encode_of_decode_ok hi]
    rfl

/-- Settles O3: each row's mask is the bits the decoder tests on the row's words. -/
theorem decodeFollowsOpcodeTable : Obligations.DecodeFollowsOpcodeTable :=
  ⟨rfl, fun _ _ hr => and_mask_eq_pattern_iff hr⟩

/-- Settles O4: the word decodes to one instruction, and its mnemonic names one row. -/
theorem noWordMatchesTwoRows : Obligations.NoWordMatchesTwoRows := by
  intro w r q hr hq hrw hqw
  obtain ⟨i, hi, hir⟩ := (and_mask_eq_pattern_iff hr).1 (of_decide_eq_true hrw)
  obtain ⟨j, hj, hjq⟩ := (and_mask_eq_pattern_iff hq).1 (of_decide_eq_true hqw)
  cases hi.symm.trans hj
  exact opcodeTable_mnemonic_inj hr hq (hir.symm.trans hjq)

/-! ### Assembled lines (R95, R105) -/

/-- The operands of an assembler line fill the bits that the row's pattern leaves 0, but for the `Y` of a shift. -/
theorem Instr.toNat_pattern_add_pack (i : Instr) :
    i.row.pattern.toNat + i.asmForm.pack i.asmOperands = (encode (withIgnoredYZero i)).toNat := by
  cases i with
  | cls | ret => decide
  | jp | call | lda | jpv0 =>
    simp [row, encode, testedBits, withIgnoredYZero, asmForm, asmOperands, AsmForm.pack]
  | _ =>
    simp [row, encode, testedBits, withIgnoredYZero, asmForm, asmOperands, AsmForm.pack]
    omega

theorem Instr.row_assemble (i : Instr) : i.row.assemble i.asmOperands = some (encode (withIgnoredYZero i)) := by
  have hok : i.row.form.operandsOk i.asmOperands = true := i.wellFormed_eq_true
  rw [OpcodeRow.assemble, if_pos hok]
  have h : i.row.pattern.toNat + i.row.form.pack i.asmOperands = _ := i.toNat_pattern_add_pack
  rw [h, BitVec.ofNat_toNat, BitVec.setWidth_eq]

/-- Settles O7: the row is the instruction's own, and assembling on it gives the encoding with `Y` zero. -/
theorem assembledLineDecodesToInstruction : Obligations.AssembledLineDecodesToInstruction := by
  intro i r hr hm
  rw [Instr.eq_row hr hm]
  exact ⟨_, i.row_assemble, decode_encode _⟩

end Sys2Proof
end

section
/-! PROOFS. Family `40_flow.md`: the step cycle, and how `pc` and the call stack move. The `pc` of an instruction that
completes is said once (`exec_pc`, R123), and so is when a step leaves the call stack alone (`step_keepsStack`); a call and
the return that ends it are joined by `ReturnPending`, which such steps keep (R134). -/

namespace Sys2Proof.Machine

open Sys2Proof.Claims

/-! ### The step cycle (R120, R121, R133) -/

/-- The state that a due `Step` acts on, without the case of the agenda. -/
theorem eq_setAgenda_of_stepDue {s u : State} (hu : stepDue s u) : u = s.setAgenda s.agenda.tail := by
  rcases hu with ⟨hnil, rfl⟩ | ⟨es, hcons, rfl⟩
  · rw [hnil, List.tail_nil, ← hnil]; rfl
  · rw [hcons, List.tail_cons]

theorem step_of_stepDue_ok {s u : State} {i : Instr} (hu : stepDue s u) (hr : s.status = .running)
    (hpc : s.pc.toNat + 1 < 4096) (hword : decode s.fetchWord = .ok i) : step s = exec i u := by
  rw [step_of_stepDue_in_memory hu hr hpc, runWord_ok hword]

theorem step_of_runsInstruction {s : State} {i : Instr} (h : runsInstruction s i) :
    step s = exec i (s.setAgenda s.agenda.tail) := by
  obtain ⟨hr, ⟨u, hu⟩, hpc, hword⟩ := h
  rw [← eq_setAgenda_of_stepDue hu, step_of_stepDue_ok hu hr hpc hword]

/-- The decoder on the two bytes at an address is the decoder on their word. -/
theorem decode_of_decodeBytes {hi lo : Byte} {i : Instr} (h : decodeBytes [hi, lo] = .ok (i, [])) :
    decode (wordOfBytes hi lo) = .ok i := by
  rw [decodeBytes] at h
  cases hw : decode (wordOfBytes hi lo) with
  | ok j => rw [hw] at h; cases h; rfl
  | error g => rw [hw] at h; cases h

/-- Settles O8: the two bytes are the word the step fetches, and a `Step` is due in both forms of the agenda. -/
theorem stepRunsDecodedInstruction : Obligations.StepRunsDecodedInstruction := by
  intro s i es hr hpc hbytes _
  have hword : decode s.fetchWord = .ok i := decode_of_decodeBytes hbytes
  exact ⟨fun hnil => step_of_stepDue_ok (.inl ⟨hnil, rfl⟩) hr hpc hword,
    fun hcons => step_of_stepDue_ok (.inr ⟨es, hcons, rfl⟩) hr hpc hword⟩

/-- Settles O10: the decoder rejects every word of R100's table, and the fetch statement says what the step then does. -/
theorem reservedWordOnlyAdvances : Obligations.ReservedWordOnlyAdvances := by
  intro s u hu hr hpc ⟨g, hg⟩
  obtain ⟨-, hfetch⟩ := fetchIsBigEndianAndBoundsChecked s u hu hr
  obtain ⟨w, hw, -, hreserved⟩ := hfetch hpc
  rw [← hw] at hg
  exact hreserved g (decode_of_reservedIn hg)

/-- Settles O11: an issued `Step` does nothing outside `Running`; with nothing left but steps the status is reported. -/
theorem stepActsOnlyWhenRunning : Obligations.StepActsOnlyWhenRunning := by
  refine fun s => ⟨fun es hcons hstatus => ?_, fun c hnil hstatus => ?_, fun hnil hstatus => ?_⟩
  · rw [step_of_agenda_step hcons, stepEvent_not_running (s := s.setAgenda es) hstatus]; rfl
  · rw [step_of_agenda_nil hnil, onlySteps_faulted hstatus]
  · rw [step_of_agenda_nil hnil, onlySteps_unloaded hstatus]

/-! ### Jumps and skips (R124, R125, R128 to R132) -/

theorem toNat_addrWord (nnn : Addr) : (addrWord nnn).toNat = nnn.toNat :=
  BitVec.toNat_setWidth_of_le (by decide)

/-- The target of BNNN is a plain sum: at most 0x10FE, it does not wrap (R128). -/
theorem toNat_addrWord_add_byteWord (nnn : Addr) (b : Byte) :
    (addrWord nnn + byteWord b).toNat = nnn.toNat + b.toNat := by
  rw [addrWord, byteWord]; bv_omega

theorem toNat_pc_add_two {pc : Word} (hpc : pc.toNat + 1 < 4096) : (pc + 2).toNat = pc.toNat + 2 := by bv_omega

theorem toNat_pc_add_four {pc : Word} (hpc : pc.toNat + 1 < 4096) : (pc + 4).toNat = pc.toNat + 4 := by bv_omega

theorem toNat_skipIf_pc {s : State} (hpc : s.pc.toNat + 1 < 4096) (b : Bool) :
    (s.skipIf b).pc.toNat = if b = true then s.pc.toNat + 4 else s.pc.toNat + 2 := by
  cases b
  · exact toNat_pc_add_two hpc
  · exact toNat_pc_add_four hpc

/-- A jump or a skip writes `pc` alone. -/
theorem writesOnlyRegsNoDraw_setPc (s : State) (v : Word) : WritesOnlyRegsNoDraw [] s (s.setPc v) :=
  ⟨⟨keepsRegs_refl [] s, rfl, fun _ => rfl, ⟨fun _ _ => rfl, rfl⟩, ⟨rfl, fun _ => rfl⟩, ⟨rfl, rfl⟩,
    ⟨fun _ => rfl, rfl, rfl, rfl, rfl⟩⟩, rfl⟩

/-- Settles O20: both write `pc` alone, and neither target wraps. -/
theorem jumpsSetPc : Obligations.JumpsSetPc := fun s nnn =>
  ⟨⟨_, rfl, toNat_addrWord nnn, writesOnlyRegsNoDraw_setPc s _⟩,
    ⟨_, rfl, toNat_addrWord_add_byteWord nnn (s.reg 0), writesOnlyRegsNoDraw_setPc s _⟩⟩

/-- Settles O21: the jump writes to `pc` the value it has. -/
theorem jumpToSelfChangesNothing : Obligations.JumpToSelfChangesNothing := by
  intro s u nnn hu hr hself htarget hword
  obtain ⟨hupc, -⟩ := stepDue_fetch hu
  have haddr : addrWord nnn = u.pc := by rw [← BitVec.toNat_inj, toNat_addrWord, hupc, hself]
  rw [step_of_stepDue_ok hu hr (by omega) hword, exec, execJp, haddr]
  rfl

/-! ### Call and return (R126, R127) -/

/-- A push writes the entry at `sp` alone. -/
theorem getElem_push_stack (s : State) (v : Word) (h : s.sp.val < 16) (k : Fin 16) :
    (s.push v h).stack[k] = if s.sp.val = k.val then v else s.stack[k] :=
  Vector.getElem_set h k.isLt

theorem exec_call {s : State} (nnn : Addr) (h : s.sp.val < 16) :
    exec (.call nnn) s = .next ((s.push (s.pc + 2) h).setPc (addrWord nnn)) := dif_pos h

theorem exec_ret {s : State} (h : 0 < s.sp.val) : exec .ret s = .next ((s.pop h).2.setPc (s.pop h).1) := dif_pos h

/-- The frame of call and return: `pc`, `sp` and the entries may be any. -/
theorem writesOnlyStack_update (s : State) (pc : Word) (stack : Vector Word 16) (sp : Fin 17) :
    WritesOnlyStack s { s with pc, stack, sp } :=
  ⟨keepsRegs_refl [] s, rfl, fun _ => rfl, ⟨fun _ _ => rfl, rfl⟩, ⟨rfl, rfl⟩, ⟨fun _ => rfl, rfl, rfl, rfl, rfl⟩, rfl⟩

/-- Settles O22: by whether the stack has room. -/
theorem callPushesReturnAddress : Obligations.CallPushesReturnAddress := by
  refine fun s nnn => ⟨fun h => ⟨_, exec_call nnn h, ?_, fun k hk => ?_, rfl, toNat_addrWord nnn,
    writesOnlyStack_update s _ _ _⟩, fun hfull => ?_⟩
  · exact (getElem_push_stack s (s.pc + 2) h ⟨s.sp.val, h⟩).trans (if_pos rfl)
  · exact (getElem_push_stack s (s.pc + 2) h k).trans (if_neg hk.symm)
  · exact dif_neg (by omega)

/-- Settles O23: by whether the stack has an entry. -/
theorem returnPopsAddress : Obligations.ReturnPopsAddress := by
  refine fun s => ⟨fun k hk => ?_, fun hempty => ?_⟩
  · have hpos : 0 < s.sp.val := by omega
    have hsp : s.sp.val - 1 = k.val := by omega
    have htop : (s.pop hpos).1 = s.stack[k] := by simp only [State.pop, hsp]; rfl
    exact ⟨_, exec_ret hpos, hsp, htop, fun _ => rfl, writesOnlyStack_update s _ _ _⟩
  · exact dif_neg (by omega)

/-! ### How `pc` ends a step (R123) -/

/-- Where a row of R240's table gives no fault, its condition fails. -/
theorem not_of_fault_eq_none {p : Prop} [Decidable p] {c : Fault} (h : (if p then some c else none) = none) : ¬ p := by
  intro hp
  rw [if_pos hp] at h
  cases h

theorem withDataRange_eq_run {count : Nat} {s t : State} {run : State → State} (h : withDataRange count s run = .next t)
    (hrange : count = 0 ∨ s.I.toNat + count ≤ 4096) : t = run s := by
  rw [withDataRange_ok run hrange] at h
  cases h
  rfl

/-- A key that `V[x]` may name is the one that `keyNamed` reads. -/
theorem keyNamed_eq_key {s : State} {x : RegIdx} (h : (s.reg x).toNat < 16) :
    keyNamed s x = s.key ⟨(s.reg x).toNat, h⟩ := by
  simp [keyNamed, State.key, h]

theorem withKey_eq_run {x : RegIdx} {s t : State} {run : Bool → State} (h : withKey x s (fun k => run (s.key k)) = .next t)
    (hkey : ¬ 15 < (s.reg x).toNat) : t = run (keyNamed s x) := by
  rw [withKey, dif_pos (by omega)] at h
  cases h
  rw [keyNamed_eq_key (by omega)]

theorem execRet_pc {s t : State} (hsp : s.sp.val ≠ 0) (h : execRet s = .next t) :
    t.pc.toNat = pcAfter .ret s := by
  have hpos : 0 < s.sp.val := by omega
  cases (exec_ret hpos).symm.trans h
  simp [pcAfter, State.pop, show s.sp.val - 1 < 16 by omega]

/-- FX0A advances exactly when a key is pressed. -/
theorem execWkey_pc {x : RegIdx} {s t : State} (hpc : s.pc.toNat + 1 < 4096) (h : execWkey x s = .next t) :
    t.pc.toNat = pcAfter (.wkey x) s := by
  unfold execWkey at h
  split at h
  · next hpick =>
    cases h
    have hup : ¬ ∃ k : Fin 16, s.key k = true := by simpa [State.key] using (keyPick_eq_none s.keys).1 hpick
    exact (if_neg hup).symm
  · next k hpick =>
    cases h
    exact (toNat_pc_add_two hpc).trans (if_pos ⟨k, keyPick_pressed hpick⟩).symm

/-- R123's table: where `pc` ends when the instruction does not fault. -/
theorem exec_pc {i : Instr} {s t : State} (hpc : s.pc.toNat + 1 < 4096) (hnone : faultOf i s = none)
    (h : exec i s = .next t) : t.pc.toNat = pcAfter i s := by
  have hadvance : (s.pc + 2).toNat = s.pc.toNat + 2 := toNat_pc_add_two hpc
  cases i with
  | jp nnn => cases h; exact toNat_addrWord nnn
  | jpv0 nnn => cases h; exact toNat_addrWord_add_byteWord nnn (s.reg 0)
  | call nnn =>
    have hroom := not_of_fault_eq_none hnone
    cases (exec_call nnn (by omega)).symm.trans h
    exact toNat_addrWord nnn
  | ret => exact execRet_pc (not_of_fault_eq_none hnone) h
  | sei x nn | snei x nn | se x y | sne x y =>
    cases h
    rw [toNat_skipIf_pc hpc]
    simp [pcAfter]
  | skp x =>
    rw [withKey_eq_run (run := s.skipIf) h (not_of_fault_eq_none hnone)]
    exact toNat_skipIf_pc hpc _
  | sknp x =>
    rw [withKey_eq_run (run := fun b => s.skipIf (!b)) h (not_of_fault_eq_none hnone), toNat_skipIf_pc hpc, pcAfter]
    cases keyNamed s x <;> rfl
  | wkey x => exact execWkey_pc hpc h
  | bcd x =>
    rw [exec, execBcd] at h
    have hrange := not_of_fault_eq_none hnone
    rw [withDataRange_eq_run h (by omega)]
    exact hadvance
  | drw x y n =>
    rw [exec, execDrw] at h
    have hrange := not_of_fault_eq_none hnone
    rw [withDataRange_eq_run h (by omega), State.drawRows_eq]
    exact hadvance
  | stm x =>
    rw [exec, execStm] at h
    have hrange := not_of_fault_eq_none hnone
    rw [withDataRange_eq_run h (by omega), State.storeRegs_eq]
    exact hadvance
  | ldm x =>
    rw [exec, execLdm] at h
    have hrange := not_of_fault_eq_none hnone
    rw [withDataRange_eq_run h (by omega), State.loadRegs_eq]
    exact hadvance
  | _ => cases h; exact hadvance

/-- Settles O16: a fault, of an instruction or of the fetch, leaves `pc`; otherwise R123's table holds. -/
theorem pcEndsAsClassSays : Obligations.PcEndsAsClassSays := by
  refine fun s => ⟨fun hpc i => ?_, fun hpc w g hw => ?_, fun hpc hr ⟨u, hu⟩ => ?_⟩
  · obtain ⟨t, ht⟩ := exec_answers_next i s
    refine ⟨t, ht, ?_⟩
    rcases exec_cases ht with ⟨c, hfault, rfl⟩ | ⟨hnone, -⟩
    · rw [hfault]; rfl
    · rw [hnone]; exact exec_pc hpc hnone ht
  · exact ⟨_, runWord_error hw s, toNat_pc_add_two hpc⟩
  · obtain ⟨hupc, -⟩ := stepDue_fetch hu
    exact ⟨_, step_of_stepDue_out_of_memory hu hr hpc, hupc⟩

/-- Settles O25: a skip writes `pc` alone, and R123's table gives its value. -/
theorem registerSkipsMovePc : Obligations.RegisterSkipsMovePc := by
  intro s x y nn hpc
  have himm : (s.reg x).toNat = nn.toNat ↔ s.reg x = nn := BitVec.toNat_inj
  have hreg : (s.reg x).toNat = (s.reg y).toNat ↔ s.reg x = s.reg y := BitVec.toNat_inj
  simp only [himm, hreg]
  exact ⟨⟨_, rfl, writesOnlyRegsNoDraw_setPc s _, exec_pc (i := .sei x nn) hpc rfl rfl⟩,
    ⟨_, rfl, writesOnlyRegsNoDraw_setPc s _, exec_pc (i := .snei x nn) hpc rfl rfl⟩,
    ⟨_, rfl, writesOnlyRegsNoDraw_setPc s _, exec_pc (i := .se x y) hpc rfl rfl⟩,
    ⟨_, rfl, writesOnlyRegsNoDraw_setPc s _, exec_pc (i := .sne x y) hpc rfl rfl⟩⟩

/-! ### Call and return pair up (R134) -/

/-- The return address `p` is the top entry of the stack, at `k`: the next return goes to `p` and leaves `sp` at `k`. -/
def ReturnPending (k : Fin 16) (p : Word) (s : State) : Prop := s.sp.val = k.val + 1 ∧ s.stack[k] = p

theorem returnPending_of_exec_call {s t : State} {nnn : Addr} (hsp : s.sp.val < 16) (h : exec (.call nnn) s = .next t) :
    ReturnPending ⟨s.sp.val, hsp⟩ (s.pc + 2) t := by
  obtain ⟨hroom, -⟩ := callPushesReturnAddress s nnn
  obtain ⟨t', ht', htop, -, hsp', -, -⟩ := hroom hsp
  cases ht'.symm.trans h
  exact ⟨hsp', htop⟩

theorem ReturnPending.exec_ret {k : Fin 16} {p : Word} {s : State} (h : ReturnPending k p s) :
    ∃ t, exec .ret s = .next t ∧ t.pc = p ∧ t.sp.val = k.val := by
  obtain ⟨hsp, htop⟩ := h
  obtain ⟨hpop, -⟩ := returnPopsAddress s
  obtain ⟨t, ht, hsp', hpc, -, -⟩ := hpop k hsp
  exact ⟨t, ht, hpc.trans htop, hsp'⟩

theorem ReturnPending.of_keepsStack {k : Fin 16} {p : Word} {s t : State} (h : ReturnPending k p s)
    (hkeeps : KeepsStack s t) : ReturnPending k p t := by
  obtain ⟨hsp, htop⟩ := h
  obtain ⟨hsp', hstack⟩ := hkeeps
  exact ⟨hsp' ▸ hsp, (hstack k).trans htop⟩

theorem ReturnPending.of_runAll {k : Fin 16} {p : Word} {is : List Instr} {s t : State} (h : ReturnPending k p s)
    (htouch : ∀ i ∈ is, touchesStack i = false) (hrun : runAll is s = some t) : ReturnPending k p t := by
  induction is generalizing s with
  | nil => cases hrun; exact h
  | cons i is ih =>
    obtain ⟨s', hs'⟩ := exec_answers_next i s
    rw [runAll, hs'] at hrun
    rw [List.forall_mem_cons] at htouch
    obtain ⟨hi, his⟩ := htouch
    exact ih (h.of_keepsStack (onlyCallAndReturnTouchStack i s s' hs' hi)) his hrun

/-- Settles O24: the call leaves its return pending, and the instructions between leave the stack alone. -/
theorem callAndReturnPairUp : Obligations.CallAndReturnPairUp := by
  intro s t u nnn is hsp hcall htouch hrun
  obtain ⟨w, hw, hpc, hsp'⟩ := ((returnPending_of_exec_call hsp hcall).of_runAll htouch hrun).exec_ret
  exact ⟨w, hw, hpc, Fin.ext hsp'⟩

theorem keepsStack_refl (s : State) : KeepsStack s s := ⟨rfl, fun _ => rfl⟩

/-- A call or a return that completes moves `sp`, so an instruction that leaves `sp` leaves the stack. -/
theorem exec_keepsStack {i : Instr} {s t : State} (h : exec i s = .next t) (hsp : t.sp = s.sp) : KeepsStack s t := by
  rcases exec_cases h with ⟨c, -, rfl⟩ | ⟨-, he⟩
  · exact keepsStack_refl s
  · cases he with
    | call hroom =>
      have hmoved : s.sp.val + 1 = s.sp.val := congrArg Fin.val hsp
      omega
    | ret hpos =>
      have hmoved : s.sp.val - 1 = s.sp.val := congrArg Fin.val hsp
      omega
    | _ => exact keepsStack_refl s

theorem StepEffect.keepsStack {s t : State} (he : StepEffect s t) (hsp : t.sp = s.sp) : KeepsStack s t := by
  cases he with
  | idle | fetchFault | reserved => exact keepsStack_refl s
  | instr _ _ _ hexec => exact exec_keepsStack hexec hsp

/-- An accepted `Load` sets `sp` to 0; no other event writes the stack. -/
theorem perform_keepsStack {e : Event} {s t : State} (hstep : e ≠ .step) (h : perform e s = .next t) (hsp : t.sp = s.sp)
    (hpos : 0 < s.sp.val) : KeepsStack s t := by
  cases e with
  | step => exact absurd rfl hstep
  | tick | setKeys | ackRedraw => cases h; exact keepsStack_refl s
  | load rom b =>
    cases h
    rcases s.load_cases rom b with ⟨-, he⟩ | ⟨-, he⟩
    · rw [he] at hsp
      have hzero : 0 = s.sp.val := congrArg Fin.val hsp
      omega
    · rw [he]; exact keepsStack_refl s

/-- A step that leaves `sp` as it is, above 0, leaves the call stack. -/
theorem step_keepsStack {s t : State} (h : step s = .next t) (hsp : t.sp = s.sp) (hpos : 0 < s.sp.val) :
    KeepsStack s t := by
  rcases step_cases h with ⟨u, hu, he⟩ | ⟨e, es, -, hstep, he⟩
  · cases eq_setAgenda_of_stepDue hu
    exact he.keepsStack hsp
  · exact perform_keepsStack (s := s.setAgenda es) hstep he hsp hpos

/-- Settles O59: the call leaves its return pending, by induction every step between keeps it so, and the return ends it. -/
theorem callAndReturnPairUpOverEvents : Obligations.CallAndReturnPairUpOverEvents := by
  intro f n nnn hstep hcall hroom hsp hret
  have hpending : ∀ m, m ≤ n → ReturnPending ⟨(f 0).sp.val, hroom⟩ ((f 0).pc + 2) (f (m + 1)) := by
    intro m hm
    induction m with
    | zero =>
      have hexec := (step_of_runsInstruction hcall).symm.trans (hstep 0 (by omega))
      exact returnPending_of_exec_call (s := (f 0).setAgenda (f 0).agenda.tail) hroom hexec
    | succ m ih =>
      have hbefore := ih (by omega)
      have hpos : 0 < (f (m + 1)).sp.val := by obtain ⟨hspm, -⟩ := hbefore; omega
      exact hbefore.of_keepsStack (step_keepsStack (hstep (m + 1) (by omega)) (hsp (m + 1) (by omega) hm) hpos)
  have hlast : ReturnPending ⟨(f 0).sp.val, hroom⟩ ((f 0).pc + 2) ((f (n + 1)).setAgenda (f (n + 1)).agenda.tail) :=
    hpending n le_rfl
  obtain ⟨w, hw, hpc, hsp'⟩ := hlast.exec_ret
  have hend : f (n + 2) = w := by
    have heq := (hstep (n + 1) le_rfl).symm.trans ((step_of_runsInstruction hret).trans hw)
    cases heq
    rfl
  rw [hend]
  exact ⟨hpc, Fin.ext hsp'⟩

end Sys2Proof.Machine
end

section
/-! PROOFS. Family `41_alu.md`: what the register instructions write. Each of them is one of the two shared operations
`writeAndAdvance` and `flagThenWrite`, whose result and frame are said once; the results with register 15 as an operand
(R158 to R161) follow from what a register reads after the flag is written (`toNat_reg_setFlag`). -/

namespace Sys2Proof.Machine

open Sys2Proof.Claims

/-! ### The two shared operations (R15, R123) -/

/-- The frame of a register instruction: `pc` and the registers of `rs` may be any. -/
theorem writesOnlyRegsNoDraw_update {rs : List RegIdx} {s : State} {V : Vector Byte 16}
    (hregs : KeepsRegs rs s { s with V }) (pc : Word) : WritesOnlyRegsNoDraw rs s { s with V, pc } :=
  ⟨⟨hregs, rfl, fun _ => rfl, ⟨fun _ _ => rfl, rfl⟩, ⟨rfl, fun _ => rfl⟩, ⟨rfl, rfl⟩,
    ⟨fun _ => rfl, rfl, rfl, rfl, rfl⟩⟩, rfl⟩

theorem reg_setReg_same (s : State) (x : RegIdx) (v : Byte) : (s.setReg x v).reg x = v := by
  rw [State.reg_setReg, if_pos rfl]

/-- The result and the frame of a register instruction without a flag. -/
theorem writeAndAdvance_spec (x : RegIdx) (v : Byte) (s : State) :
    ∃ t, writeAndAdvance x v s = .next t ∧ t.reg x = v ∧ t.pc = s.pc + 2 ∧ WritesOnlyRegsNoDraw [x] s t :=
  ⟨_, rfl, reg_setReg_same s x v, rfl, writesOnlyRegsNoDraw_update (keepsRegs_setReg (by simp) s v) _⟩

/-- The result and the frame of a register instruction with a flag; with `X = 15` the result overwrites the flag. -/
theorem flagThenWrite_spec (f : Bool) (x : RegIdx) (v : State → Byte) (s : State) :
    ∃ t, flagThenWrite f x v s = .next t ∧ t.pc = s.pc + 2 ∧ WritesOnlyRegsNoDraw [x, 15] s t ∧
      t.reg x = v (s.setFlag f) ∧ (x ≠ 15 → t.reg 15 = flagByte f) := by
  refine ⟨_, rfl, rfl, writesOnlyRegsNoDraw_update (keepsRegs_setFlag_setReg x s f _) _, reg_setReg_same _ x _,
    fun hx => ?_⟩
  rw [State.advance_reg, State.reg_setReg, if_neg hx.symm, State.reg_setFlag, if_pos rfl]

/-! ### Bytes and flags as numbers (R12, R21) -/

theorem toNat_sub_byte (a b : Byte) : (a - b).toNat = (a.toNat + 256 - b.toNat) % 256 := by bv_omega

theorem toNat_shiftRight_one (a : Byte) : (a >>> 1).toNat = a.toNat / 2 := by
  rw [BitVec.toNat_ushiftRight, Nat.shiftRight_eq_div_pow, pow_one]

theorem toNat_shiftLeft_one (a : Byte) : (a <<< 1).toNat = a.toNat * 2 % 256 := by
  rw [BitVec.toNat_shiftLeft, Nat.shiftLeft_eq, pow_one]

theorem toNat_flagByte (b : Bool) : (flagByte b).toNat = b.toNat := by cases b <;> rfl

theorem toNat_flagByte_decide (p : Prop) [Decidable p] : (flagByte (decide p)).toNat = if p then 1 else 0 := by
  rw [toNat_flagByte, Bool.toNat, Bool.cond_decide]

theorem toNat_flagByte_shiftedOutRight (a : Byte) : (flagByte (shiftedOutRight a)).toNat = a.toNat % 2 := by
  rw [toNat_flagByte, shiftedOutRight, BitVec.getLsbD, Nat.toNat_testBit, pow_zero, Nat.div_one]

theorem toNat_flagByte_shiftedOutLeft (a : Byte) : (flagByte (shiftedOutLeft a)).toNat = a.toNat / 128 := by
  rw [toNat_flagByte, shiftedOutLeft, BitVec.getLsbD, Nat.toNat_testBit]
  omega

/-- What a register reads once the flag is written: register 15 reads the flag (R15). -/
theorem toNat_reg_setFlag (s : State) (b : Bool) (z : RegIdx) :
    ((s.setFlag b).reg z).toNat = if z = 15 then (flagByte b).toNat else (s.reg z).toNat := by
  rw [State.reg_setFlag, apply_ite BitVec.toNat]

/-! ### Load, copy, immediate sum, logic, random byte (R151 to R156, R162) -/

/-- Settles O27: both write their one register. -/
theorem loadImmediateAndCopy : Obligations.LoadImmediateAndCopy := fun s x y nn =>
  ⟨writeAndAdvance_spec x nn s, writeAndAdvance_spec x (s.reg y) s⟩

/-- Settles O28: the sum of bytes is the sum modulo 256. -/
theorem addImmediateWrapsWithoutFlag : Obligations.AddImmediateWrapsWithoutFlag := by
  intro s x nn
  obtain ⟨t, hexec, hx, hpc, hframe⟩ := writeAndAdvance_spec x (s.reg x + nn) s
  exact ⟨t, hexec, by rw [hx, BitVec.toNat_add], hpc, hframe⟩

/-- A register instruction without a flag, with its result stated bit by bit. -/
theorem writeAndAdvance_bits (x : RegIdx) {v : Byte} (s : State) {bit : Nat → Bool} (hv : ∀ k, v.getLsbD k = bit k) :
    ∃ t, writeAndAdvance x v s = .next t ∧ (∀ k, (t.reg x).getLsbD k = bit k) ∧ t.pc = s.pc + 2 ∧
      WritesOnlyRegsNoDraw [x] s t := by
  obtain ⟨t, hexec, hx, hpc, hframe⟩ := writeAndAdvance_spec x v s
  exact ⟨t, hexec, fun k => by rw [hx, hv], hpc, hframe⟩

/-- Settles O29: each of the three operations on bytes works on the bits of the same number. -/
theorem logicWorksBitwiseWithoutFlag : Obligations.LogicWorksBitwiseWithoutFlag := fun s x _ =>
  ⟨writeAndAdvance_bits x s fun _ => BitVec.getLsbD_or, writeAndAdvance_bits x s fun _ => BitVec.getLsbD_and,
    writeAndAdvance_bits x s fun _ => BitVec.getLsbD_xor⟩

/-- Settles O35: the instruction masks the drawn byte in the state that has drawn it, where only the count of draws is
new. -/
theorem randomByteIsMasked : Obligations.RandomByteIsMasked := by
  intro s x nn
  obtain ⟨t, hexec, hbits, hpc, hframe, hdraws⟩ :=
    writeAndAdvance_bits x s.draw.2 (v := Config.rand s.draws &&& nn) fun _ => BitVec.getLsbD_and
  exact ⟨t, hexec, hbits, hdraws, hpc, hframe⟩

/-! ### Sum and differences (R157, R158, R160) -/

/-- Settles O30: the sum does not depend on the flag written before it. -/
theorem addWritesSumAndCarry : Obligations.AddWritesSumAndCarry := by
  intro s x y
  obtain ⟨t, hexec, hpc, hframe, hx, hflag⟩ :=
    flagThenWrite_spec (carryFlag (s.reg x) (s.reg y)) x (fun _ => s.reg x + s.reg y) s
  refine ⟨t, hexec, by rw [hx, BitVec.toNat_add], fun hx15 => ?_, hpc, hframe⟩
  rw [hflag hx15, carryFlag, toNat_flagByte_decide]

/-- Both subtractions, `V[a] - V[b]` into `V[x]`: an operand that is register 15 reads the no-borrow flag `f`. -/
theorem flagThenWrite_difference (s : State) (x a b : RegIdx) {f : Nat}
    (hf : f = if (s.reg a).toNat ≥ (s.reg b).toNat then 1 else 0) :
    ∃ t, flagThenWrite (noBorrowFlag (s.reg a) (s.reg b)) x (fun t => t.reg a - t.reg b) s = .next t ∧
      t.pc = s.pc + 2 ∧ WritesOnlyRegsNoDraw [x, 15] s t ∧
      (t.reg x).toNat =
        ((if a = 15 then f else (s.reg a).toNat) + 256 - (if b = 15 then f else (s.reg b).toNat)) % 256 ∧
      (x ≠ 15 → (t.reg 15).toNat = f) := by
  obtain ⟨t, hexec, hpc, hframe, hx, hflag⟩ :=
    flagThenWrite_spec (noBorrowFlag (s.reg a) (s.reg b)) x (fun t => t.reg a - t.reg b) s
  have hf' : (flagByte (noBorrowFlag (s.reg a) (s.reg b))).toNat = f := (toNat_flagByte_decide _).trans hf.symm
  refine ⟨t, hexec, hpc, hframe, ?_, fun hx15 => by rw [hflag hx15, hf']⟩
  rw [hx, toNat_sub_byte, toNat_reg_setFlag, toNat_reg_setFlag, hf']

/-- Settles O31: the four cases are those of the two operands being register 15. -/
theorem subtractWritesDifferenceAndNoBorrow : Obligations.SubtractWritesDifferenceAndNoBorrow := by
  intro s x y f hf
  obtain ⟨t, hexec, hpc, hframe, hx, hflag⟩ := flagThenWrite_difference s x x y hf
  refine ⟨t, hexec, hpc, hframe, fun hx15 hy15 => ⟨?_, hflag hx15⟩, fun hx15 hy15 => ?_,
    fun hx15 hy15 => ⟨?_, hflag hx15⟩, fun hx15 hy15 => ?_⟩
  · rw [hx, if_neg hx15, if_neg hy15]
  · rw [← hx15, hx, if_pos hx15, if_neg hy15]
  · rw [hx, if_neg hx15, if_pos hy15]
  · rw [← hx15, hx, if_pos hx15, if_pos hy15]; omega

/-- Settles O32: the four cases are those of the two operands being register 15. -/
theorem reverseSubtractWritesDifferenceAndNoBorrow : Obligations.ReverseSubtractWritesDifferenceAndNoBorrow := by
  intro s x y f hf
  obtain ⟨t, hexec, hpc, hframe, hx, hflag⟩ := flagThenWrite_difference s x y x hf
  refine ⟨t, hexec, hpc, hframe, fun hx15 hy15 => ⟨?_, hflag hx15⟩, fun hx15 hy15 => ?_,
    fun hx15 hy15 => ⟨?_, hflag hx15⟩, fun hx15 hy15 => ?_⟩
  · rw [hx, if_neg hy15, if_neg hx15]
  · rw [← hx15, hx, if_neg hy15, if_pos hx15]
  · rw [hx, if_pos hy15, if_neg hx15]
  · rw [← hx15, hx, if_pos hy15, if_pos hx15]; omega

/-! ### Shifts (R159, R161) -/

/-- Settles O33: with `X = 15` the shift halves the bit of the first line. -/
theorem shiftRightHalves : Obligations.ShiftRightHalves := by
  refine fun s x y z => ⟨rfl, ?_⟩
  obtain ⟨t, hexec, hpc, hframe, hx, hflag⟩ :=
    flagThenWrite_spec (shiftedOutRight (s.reg x)) x (fun t => t.reg x >>> 1) s
  have hvalue : (t.reg x).toNat = (if x = 15 then (s.reg x).toNat % 2 else (s.reg x).toNat) / 2 := by
    rw [hx, toNat_shiftRight_one, toNat_reg_setFlag, toNat_flagByte_shiftedOutRight]
  refine ⟨t, hexec, hpc, hframe, fun hx15 => ⟨?_, ?_⟩, fun hx15 => ?_⟩
  · rw [hvalue, if_neg hx15]
  · rw [hflag hx15, toNat_flagByte_shiftedOutRight]
  · rw [← hx15, hvalue, if_pos hx15]; omega

/-- Settles O34: with `X = 15` the shift doubles the bit of the first line. -/
theorem shiftLeftDoubles : Obligations.ShiftLeftDoubles := by
  refine fun s x y z => ⟨rfl, ?_⟩
  obtain ⟨t, hexec, hpc, hframe, hx, hflag⟩ :=
    flagThenWrite_spec (shiftedOutLeft (s.reg x)) x (fun t => t.reg x <<< 1) s
  have hvalue : (t.reg x).toNat = (if x = 15 then (s.reg x).toNat / 128 else (s.reg x).toNat) * 2 % 256 := by
    rw [hx, toNat_shiftLeft_one, toNat_reg_setFlag, toNat_flagByte_shiftedOutLeft]
  refine ⟨t, hexec, hpc, hframe, fun hx15 => ⟨?_, ?_⟩, fun hx15 => ?_⟩
  · rw [hvalue, if_neg hx15]
  · rw [hflag hx15, toNat_flagByte_shiftedOutLeft]
  · rw [← hx15, hvalue, if_pos hx15]; omega

end Sys2Proof.Machine
end

section
/-! PROOFS. Family `42_index_memory.md`: the instructions that set `I`, and the loads and stores through it. The frame of
each kind of instruction is said once, for whatever it writes; the bytes and the registers that an access leaves are those
of `State.memByte_storeDigits`, `State.memByte_storeRegs` and `State.reg_loadRegs`. -/

namespace Sys2Proof.Machine

open Sys2Proof.Claims

/-! ### Setting the index register (R181 to R183) -/

theorem toNat_add_byteWord (v : Word) (b : Byte) : (v + byteWord b).toNat = (v.toNat + b.toNat) % 65536 := by
  rw [byteWord, BitVec.toNat_add, BitVec.toNat_setWidth_of_le (by decide)]

/-- Five times a byte is at most 1275, so the whole product fits `I` (R183). -/
theorem toNat_glyphAddress (b : Byte) : (BitVec.ofNat 16 (b.toNat * Config.glyphSize)).toNat = b.toNat * 5 := by
  rw [BitVec.toNat_ofNat, Config.glyphSize]; omega

/-- The frame of an instruction that sets the index register: `I` and `pc` may be any. -/
theorem writesOnlyIndex_update (s : State) (I pc : Word) : WritesOnlyIndex s { s with I, pc } :=
  ⟨keepsRegs_refl [] s, fun _ => rfl, ⟨fun _ _ => rfl, rfl⟩, ⟨rfl, fun _ => rfl⟩, ⟨rfl, rfl⟩,
    ⟨fun _ => rfl, rfl, rfl, rfl, rfl⟩, rfl⟩

/-- Settles O37: each of the three writes `I` and `pc` alone. -/
theorem indexInstructionsSetI : Obligations.IndexInstructionsSetI := fun s nnn x =>
  ⟨⟨_, rfl, toNat_addrWord nnn, rfl, writesOnlyIndex_update s _ _⟩,
    ⟨_, rfl, toNat_add_byteWord s.I (s.reg x), rfl, writesOnlyIndex_update s _ _⟩,
    ⟨_, rfl, toNat_glyphAddress (s.reg x), rfl, writesOnlyIndex_update s _ _⟩⟩

/-! ### Accesses through `I` that fault (R240, R243) -/

/-- An instruction to which R240's table gives a fault takes it. -/
theorem exec_of_faultOf {i : Instr} {s : State} {c : Fault} (h : faultOf i s = some c) :
    exec i s = .next (s.faultedWith c) := by
  obtain ⟨t, ht⟩ := exec_answers_next i s
  rcases exec_cases ht with ⟨c', hfault, rfl⟩ | ⟨hnone, -⟩
  · cases h.symm.trans hfault; exact ht
  · cases h.symm.trans hnone

/-! ### Stores (R184, R186) -/

/-- How a store ends: `u` differs from `s` in memory alone, and the advance moves `pc` alone. -/
theorem advance_of_eq_update_mem {s u : State} (hu : u = { s with mem := u.mem }) {base count : Nat}
    (hmem : KeepsMemoryOutside base count s u) :
    u.advance.pc = s.pc + 2 ∧ WritesOnlyMemoryAt base count s u.advance := by
  generalize u.mem = mem at hu
  subst hu
  exact ⟨rfl, keepsRegs_refl [] s, rfl, hmem, ⟨fun _ _ => rfl, rfl⟩, ⟨rfl, fun _ => rfl⟩, ⟨rfl, rfl⟩,
    ⟨fun _ => rfl, rfl, rfl, rfl, rfl⟩, rfl⟩

/-- Settles O38: by whether the range ends in memory; the digits lie at the three addresses of the range. -/
theorem decimalDigitsAreStored : Obligations.DecimalDigitsAreStored := by
  refine fun s x => ⟨fun hI => ⟨_, exec_bcd_in_memory x hI, ?hundreds, ?tens, ?ones, ?frame⟩,
    fun hI => exec_of_faultOf (if_pos hI)⟩
  case hundreds =>
    rw [State.advance_memByte, State.memByte_storeDigits, State.dataAddr, if_neg (by omega), if_neg (by omega),
      if_pos (by omega), toNat_hundredsDigit]
  case tens =>
    rw [State.advance_memByte, State.memByte_storeDigits, State.dataAddr, if_neg (by omega), if_pos rfl, toNat_tensDigit]
  case ones =>
    rw [State.advance_memByte, State.memByte_storeDigits, State.dataAddr, if_pos rfl, toNat_onesDigit]
  case frame =>
    exact advance_of_eq_update_mem (s.storeDigits_eq (s.reg x)) (storeDigits_keepsMemoryOutside s (s.reg x))

/-- Settles O39: by whether the range ends in memory; register `z` lies at the `z`-th address of the range. -/
theorem registersAreStored : Obligations.RegistersAreStored := by
  refine fun s x => ⟨fun hI => ⟨_, exec_stm_in_memory hI, fun z hz => ?bytes, ?frame⟩,
    fun hI => exec_of_faultOf (if_pos hI)⟩
  case bytes => exact s.memByte_storeRegs_reg x.isLt (Nat.lt_succ_of_le hz)
  case frame =>
    exact advance_of_eq_update_mem (s.storeRegs_eq (x.val + 1)) (storeRegs_keepsMemoryOutside s x.isLt)

/-! ### Loads (R187, R188) -/

theorem exec_ldm_in_memory {s : State} {x : RegIdx} (h : s.I.toNat + x.val < 4096) :
    exec (.ldm x) s = .next (s.loadRegs (x.val + 1)).advance := by
  rw [exec, execLdm]
  exact withDataRange_ok _ (.inr (by omega))

/-- How a load ends: `u` differs from `s` in the registers alone, and the advance moves `pc` alone. -/
theorem advance_of_eq_update_V {s u : State} (hu : u = { s with V := u.V }) {rs : List RegIdx} (hregs : KeepsRegs rs s u) :
    u.advance.pc = s.pc + 2 ∧ WritesOnlyRegsNoDraw rs s u.advance := by
  generalize u.V = V at hu
  subst hu
  exact ⟨rfl, writesOnlyRegsNoDraw_update hregs _⟩

/-- Settles O40: by whether the range ends in memory; the loop loads the registers up to `X` and no other. -/
theorem registersAreLoaded : Obligations.RegistersAreLoaded := by
  refine fun s x => ⟨fun hI => ⟨_, exec_ldm_in_memory hI, fun z hz => ?loaded, fun z hz => ?kept, ?frame⟩,
    fun hI => exec_of_faultOf (if_pos hI)⟩
  case loaded => exact (s.reg_loadRegs x.isLt z).trans (if_pos (Nat.lt_succ_of_le hz))
  case kept => exact (s.reg_loadRegs x.isLt z).trans (if_neg (Nat.not_lt.2 hz))
  case frame => exact advance_of_eq_update_V (s.loadRegs_eq (x.val + 1)) (keepsRegs_loadRegs x s)

/-- Settles O41: register `z` is loaded from the address to which it was stored, whose byte is as the store left it. -/
theorem storeThenLoadRestoresRegisters : Obligations.StoreThenLoadRestoresRegisters := by
  intro s t u x hI hstore huI hkept
  obtain ⟨hstm, -⟩ := registersAreStored s x
  obtain ⟨t', ht', hstored, -⟩ := hstm hI
  cases ht'.symm.trans hstore
  obtain ⟨hldm, -⟩ := registersAreLoaded u x
  obtain ⟨w, hw, hloaded, -⟩ := hldm (by rwa [huI])
  refine ⟨w, hw, fun z hz => ?_⟩
  have haddr : u.dataAddr z.val = s.dataAddr z.val := by rw [State.dataAddr, huI, State.dataAddr]
  calc w.reg z
    _ = u.memByte (s.dataAddr z.val) := by rw [hloaded z hz, haddr]
    _ = t.memByte (s.dataAddr z.val) := hkept _ (Nat.le_add_right _ _) (Nat.add_le_add_left hz _)
    _ = s.reg z := hstored z hz

end Sys2Proof.Machine
end

section
/-! PROOFS. Family `43_display.md`: clear and the sprite blit. The machine's loops run beside R203's loops on a picture and
a flag (`Shows`, kept by every pixel and every row). With coordinates not in register 15 each pass of a loop flips cells that
no other pass visits, so a whole loop flips what its passes flip (`Flips`, `Flips.foldl_range`, once for the columns and
once for the rows), which is R204. -/

namespace Sys2Proof.Machine

open Sys2Proof.Claims

/-! ### Clear (R201) -/

/-- How a display instruction ends: `u` differs from `s` in the registers of `rs` and the framebuffer alone. -/
theorem finishDisplay_of_eq_update {s u : State} (hu : u = { s with V := u.V, fb := u.fb }) {rs : List RegIdx}
    (hregs : KeepsRegs rs s u) :
    (u.setRedraw true).advance.redrawPending = true ∧ (u.setRedraw true).advance.pc = s.pc + 2 ∧
      WritesOnlyDisplay rs s (u.setRedraw true).advance := by
  generalize u.V = V, u.fb = fb at hu
  subst hu
  exact ⟨rfl, rfl, hregs, rfl, fun _ => rfl, ⟨rfl, fun _ => rfl⟩, ⟨rfl, rfl⟩, ⟨fun _ => rfl, rfl, rfl, rfl, rfl⟩, rfl⟩

/-- Settles O44: the framebuffer is cleared whole, and the instruction ends as every display instruction does. -/
theorem clearTurnsEveryCellOff : Obligations.ClearTurnsEveryCellOff := fun s =>
  ⟨_, rfl, s.cell_clearCells, finishDisplay_of_eq_update rfl (keepsRegs_refl [] s)⟩

/-! ### One pixel of the rule's loops (R203) -/

/-- The picture after a pixel: its cell is XORed with the sprite bit, every other is as it was. -/
theorem blitPixel_picture (s : State) (x : RegIdx) (row : Fin 32) (b : Byte) (p : Picture × Bool) (c : Nat) (i : Fin 32)
    (j : Fin 64) :
    (blitPixel s x row b p c).1 i j =
      if i = row ∧ j = colOfNat (coordinate s x p.2 + c)
      then p.1 row (colOfNat (coordinate s x p.2 + c)) ^^ b.getLsbD (7 - c) else p.1 i j := by
  unfold blitPixel
  generalize colOfNat (coordinate s x p.2 + c) = col
  cases b.getLsbD (7 - c) with
  | true => cases hon : p.1 row col <;> simp [hon, Picture.put]
  | false =>
    by_cases hij : i = row ∧ j = col <;> simp [hij]

/-- The flag after a pixel: it rises at a collision. -/
theorem blitPixel_flag (s : State) (x : RegIdx) (row : Fin 32) (b : Byte) (p : Picture × Bool) (c : Nat) :
    (blitPixel s x row b p c).2 =
      (p.2 || (b.getLsbD (7 - c) && p.1 row (colOfNat (coordinate s x p.2 + c)))) := by
  unfold blitPixel
  cases b.getLsbD (7 - c) with
  | true => cases hon : p.1 row (colOfNat (coordinate s x p.2 + c)) <;> simp [hon]
  | false => simp

/-! ### The machine's loops beside the rule's (R15, R203) -/

/-- `t`, a state within a DXYN that starts in `s`, holds the picture and the flag of `p`, and all else that the loops read
is as in `s`. -/
structure Shows (s t : State) (p : Picture × Bool) : Prop where
  cell : t.cell = p.1
  reg (z : RegIdx) : t.reg z = if z = 15 then flagByte p.2 else s.reg z
  spriteByte (r : Nat) : t.memByte (t.dataAddr r) = s.memByte (s.I.toNat + r)

theorem Shows.toNat_reg {s t : State} {p : Picture × Bool} (h : Shows s t p) (z : RegIdx) :
    (t.reg z).toNat = coordinate s z p.2 := by
  rw [h.reg, coordinate, apply_ite BitVec.toNat, toNat_flagByte, Bool.toNat, Bool.cond_eq_ite]

theorem shows_setFlag_false (s : State) : Shows s (s.setFlag false) (s.cell, false) :=
  ⟨rfl, s.reg_setFlag false, fun _ => rfl⟩

theorem Shows.drawPixel {s t : State} {p : Picture × Bool} (h : Shows s t p) (x : RegIdx) (row : Fin 32) (b : Byte)
    (c : Nat) : Shows s (t.drawPixel x row b c) (blitPixel s x row b p c) := by
  have hcol : t.spriteCol x c = colOfNat (coordinate s x p.2 + c) := by rw [State.spriteCol, h.toNat_reg]
  refine ⟨?cell, fun z => ?reg, h.spriteByte⟩
  case cell =>
    funext i j
    rw [State.cell_drawPixel, blitPixel_picture, hcol, h.cell]
  case reg =>
    rw [State.reg_drawPixel, blitPixel_flag, hcol, h.cell, h.reg]
    by_cases hz : z = 15
    · cases b.getLsbD (7 - c) && p.1 row (colOfNat (coordinate s x p.2 + c)) <;> simp [hz, flagByte]
    · simp [hz]

theorem Shows.drawPixels {s t : State} {p : Picture × Bool} (h : Shows s t p) (x : RegIdx) (row : Fin 32) (b : Byte)
    (count : Nat) :
    Shows s (t.drawPixels x row b count) ((List.range count).foldl (blitPixel s x row b) p) := by
  induction count with
  | zero => exact h
  | succ c ih =>
    rw [List.range_succ, List.foldl_append]
    exact ih.drawPixel x row b c

theorem Shows.drawRow {s t : State} {p : Picture × Bool} (h : Shows s t p) (x y : RegIdx) (r : Nat) :
    Shows s (t.drawRow x y r) (blitRow s x y p r) := by
  rw [State.drawRow, blitRow, State.spriteRow, h.toNat_reg, h.spriteByte]
  exact h.drawPixels x _ _ 8

/-- The machine's loops leave the picture and the flag of the rule's loops. -/
theorem shows_drawRows (s : State) (x y : RegIdx) (n : Nat) :
    Shows s ((s.setFlag false).drawRows x y n) (blit s x y n) := by
  induction n with
  | zero => exact shows_setFlag_false s
  | succ r ih =>
    rw [blit, List.range_succ, List.foldl_append]
    exact ih.drawRow x y r

theorem exec_drw_in_memory {s : State} (x y : RegIdx) {n : Nibble} (h : n.toNat = 0 ∨ s.I.toNat + n.toNat - 1 < 4096) :
    exec (.drw x y n) s = .next (((s.setFlag false).drawRows x y n.toNat).setRedraw true).advance := by
  rw [exec, execDrw]
  exact withDataRange_ok _ (by omega)

/-- Settles O45: by whether the sprite ends in memory; the loops of the machine and of the rule run side by side. -/
theorem drawFollowsLiteralLoops : Obligations.DrawFollowsLiteralLoops := by
  intro s x y n
  have hshows := shows_drawRows s x y n.toNat
  refine ⟨fun hI => ⟨_, exec_drw_in_memory x y hI, fun r c => ?cell, ?flag, ?frame⟩,
    fun hn hI => exec_of_faultOf (if_pos ⟨by omega, hI⟩)⟩
  case cell => exact congrFun₂ hshows.cell r c
  case flag => exact hshows.toNat_reg 15
  case frame =>
    exact finishDisplay_of_eq_update (s := s) ((s.setFlag false).drawRows_eq x y n.toNat)
      (keepsRegs_drawRows x y n.toNat s)

/-! ### What a loop over disjoint cells flips (R204) -/

/-- From `p` to `q` the cells of `B` flip and no other does; the flag rises when a cell of `B` was on. -/
structure Flips (B : Fin 32 → Fin 64 → Prop) (p q : Picture × Bool) : Prop where
  inside {i : Fin 32} {j : Fin 64} : B i j → q.1 i j = !p.1 i j
  outside {i : Fin 32} {j : Fin 64} : ¬ B i j → q.1 i j = p.1 i j
  flag : q.2 = true ↔ p.2 = true ∨ ∃ i j, p.1 i j = true ∧ B i j

theorem Flips.refl {B : Fin 32 → Fin 64 → Prop} (hB : ∀ i j, ¬ B i j) (p : Picture × Bool) : Flips B p p :=
  ⟨fun h => absurd h (hB _ _), fun _ => rfl, by simp [hB]⟩

/-- Two passes over cells that are not shared flip the cells of both. -/
theorem Flips.trans {B C D : Fin 32 → Fin 64 → Prop} {p q r : Picture × Bool} (hpq : Flips B p q) (hqr : Flips C q r)
    (hdisj : ∀ i j, B i j → ¬ C i j) (hD : ∀ i j, D i j ↔ B i j ∨ C i j) : Flips D p r := by
  have hC : ∀ i j, C i j → q.1 i j = p.1 i j := fun i j hC => hpq.outside fun hB => hdisj i j hB hC
  refine ⟨fun {i j} h => ?inside, fun {i j} h => ?outside, ?flag⟩
  case inside =>
    rcases (hD i j).1 h with hB | hCij
    · rw [hqr.outside (hdisj i j hB), hpq.inside hB]
    · rw [hqr.inside hCij, hC i j hCij]
  case outside =>
    obtain ⟨hB, hC⟩ := not_or.1 (mt (hD i j).2 h)
    rw [hqr.outside hC, hpq.outside hB]
  case flag =>
    have hmet : (∃ i j, q.1 i j = true ∧ C i j) ↔ ∃ i j, p.1 i j = true ∧ C i j :=
      exists₂_congr fun i j => and_congr_left fun h => by rw [hC i j h]
    rw [hqr.flag, hpq.flag, hmet, or_assoc]
    simp only [hD, and_or_left, exists_or]

/-- A loop whose passes flip cells that no two of them share flips the cells of all its passes. -/
theorem Flips.foldl_range {n : Nat} {f : Picture × Bool → Nat → Picture × Bool} {B : Nat → Fin 32 → Fin 64 → Prop}
    (hf : ∀ p k, k < n → Flips (B k) p (f p k)) (hdisj : ∀ m k i j, m < k → k < n → B m i j → ¬ B k i j)
    (p : Picture × Bool) : Flips (fun i j => ∃ k, k < n ∧ B k i j) p ((List.range n).foldl f p) := by
  induction n with
  | zero => exact .refl (by simp) p
  | succ n ih =>
    rw [List.range_succ, List.foldl_append]
    refine (ih (fun p k hk => hf p k (by omega)) fun m k i j hm hk => hdisj m k i j hm (by omega)).trans
      (hf _ n (by omega)) ?_ fun i j => ?_
    · rintro i j ⟨m, hm, hB⟩
      exact hdisj m n i j hm (by omega) hB
    · simp only [Nat.lt_succ_iff_lt_or_eq, or_and_right, exists_or, exists_eq_left]

/-! ### What the blit flips (R202, R204) -/

/-- Bit `7 - c` of sprite row `r` is a 1 and lands on cell (`i`, `j`). -/
def pixelBit (s : State) (x y : RegIdx) (r c : Nat) (i : Fin 32) (j : Fin 64) : Prop :=
  ((s.reg y).toNat + r) % 32 = i.val ∧ ((s.reg x).toNat + c) % 64 = j.val ∧
    (s.memByte (s.I.toNat + r)).getLsbD (7 - c) = true

theorem spriteBit_eq_exists_pixelBit (s : State) (x y : RegIdx) (n : Nat) :
    spriteBit s x y n = fun i j => ∃ r, r < n ∧ ∃ c, c < 8 ∧ pixelBit s x y r c i j := by
  funext i j
  simp only [spriteBit, pixelBit, exists_and_left]

theorem coordinate_of_ne {s : State} {z : RegIdx} (hz : z ≠ 15) (f : Bool) : coordinate s z f = (s.reg z).toNat :=
  if_neg hz

theorem flips_blitPixel {s : State} {x : RegIdx} (hx : x ≠ 15) (y : RegIdx) (r : Nat) (p : Picture × Bool) (c : Nat) :
    Flips (pixelBit s x y r c) p
      (blitPixel s x (rowOfNat ((s.reg y).toNat + r)) (s.memByte (s.I.toNat + r)) p c) := by
  have hbit : ∀ i j, pixelBit s x y r c i j ↔ i = rowOfNat ((s.reg y).toNat + r) ∧
      j = colOfNat ((s.reg x).toNat + c) ∧ (s.memByte (s.I.toNat + r)).getLsbD (7 - c) = true := fun i j => by
    simp only [pixelBit, rowOfNat, colOfNat, Fin.ext_iff, eq_comm]
  refine ⟨fun {i j} h => ?inside, fun {i j} h => ?outside, ?flag⟩
  case inside =>
    obtain ⟨rfl, rfl, hone⟩ := (hbit i j).1 h
    simp [blitPixel_picture, coordinate_of_ne hx, hone]
  case outside =>
    rw [blitPixel_picture, coordinate_of_ne hx]
    split
    · next hij =>
      have hzero : (s.memByte (s.I.toNat + r)).getLsbD (7 - c) = false :=
        Bool.eq_false_iff.2 fun hone => h ((hbit i j).2 ⟨hij.1, hij.2, hone⟩)
      rw [hzero, Bool.xor_false, hij.1, hij.2]
    · rfl
  case flag =>
    rw [blitPixel_flag, coordinate_of_ne hx]
    simp only [hbit, Bool.or_eq_true, Bool.and_eq_true]
    refine or_congr_right ⟨fun ⟨hone, hon⟩ => ⟨_, _, hon, rfl, rfl, hone⟩, ?_⟩
    rintro ⟨_, _, hon, rfl, rfl, hone⟩
    exact ⟨hone, hon⟩

/-- A row flips its eight pixels: the column offsets differ modulo 64. -/
theorem flips_blitRow {s : State} {x y : RegIdx} (hx : x ≠ 15) (hy : y ≠ 15) (p : Picture × Bool) (r : Nat) :
    Flips (fun i j => ∃ c, c < 8 ∧ pixelBit s x y r c i j) p (blitRow s x y p r) := by
  rw [blitRow, coordinate_of_ne hy]
  refine .foldl_range (fun p c _ => flips_blitPixel hx y r p c) ?_ p
  rintro m k i j hm hk ⟨-, hjm, -⟩ ⟨-, hjk, -⟩
  omega

/-- The blit flips the cells under the 1s of the sprite: the row offsets differ modulo 32. -/
theorem flips_blit {s : State} {x y : RegIdx} (hx : x ≠ 15) (hy : y ≠ 15) {n : Nat} (hn : n ≤ 32) :
    Flips (spriteBit s x y n) (s.cell, false) (blit s x y n) := by
  rw [spriteBit_eq_exists_pixelBit]
  refine .foldl_range (fun p r _ => flips_blitRow hx hy p r) ?_ _
  rintro m k i j hm hk ⟨_, _, him, -⟩ ⟨_, _, hik, -⟩
  omega

/-- Settles O46: DXYN leaves the picture and the flag of the rule's loops, which flip the cells under the sprite's 1s. -/
theorem drawXorsSpriteAndReportsCollision : Obligations.DrawXorsSpriteAndReportsCollision := by
  intro s x y n hx hy hI
  obtain ⟨hdraw, -⟩ := drawFollowsLiteralLoops s x y n
  obtain ⟨t, ht, hcell, hreg, -⟩ := hdraw hI
  have hflips := flips_blit (s := s) hx hy (n := n.toNat) (by omega)
  refine ⟨t, ht, fun r c => ?cells, fun hmet => ?hit, fun hmet => ?miss⟩
  case cells =>
    rw [hcell]
    exact ⟨hflips.inside, hflips.outside⟩
  case hit =>
    rw [if_pos (hflips.flag.2 (.inr hmet))] at hreg
    exact BitVec.eq_of_toNat_eq hreg
  case miss =>
    rw [if_neg fun h => (hflips.flag.1 h).elim Bool.false_ne_true hmet] at hreg
    exact BitVec.eq_of_toNat_eq hreg

/-! ### Drawing twice (R204) -/

theorem spriteBit_congr {s u : State} {x y : RegIdx} {n : Nat} (hI : u.I = s.I) (hx : u.reg x = s.reg x)
    (hy : u.reg y = s.reg y) (hmem : ∀ r, r < n → u.memByte (s.I.toNat + r) = s.memByte (s.I.toNat + r)) (i : Fin 32)
    (j : Fin 64) : spriteBit u x y n i j ↔ spriteBit s x y n i j := by
  simp only [spriteBit, hI, hx, hy]
  exact exists₂_congr fun r c => and_congr_right fun hr => by rw [hmem r hr]

/-- Settles O47: both draws flip the same cells, and a cell that was off under a 1 is on when the second meets it. -/
theorem drawTwiceRestoresPicture : Obligations.DrawTwiceRestoresPicture := by
  intro s t u x y n hx hy hI hfirst hfb huI hux huy hmem
  obtain ⟨t', ht', hcell, -⟩ := drawXorsSpriteAndReportsCollision s x y n hx hy hI
  cases ht'.symm.trans hfirst
  obtain ⟨w, hw, hcell', hhit, -⟩ := drawXorsSpriteAndReportsCollision u x y n hx hy (by rwa [huI])
  have hsame := spriteBit_congr huI hux huy hmem
  have hcells : ∀ r c, u.cell r c = t.cell r c := fun r c => by rw [State.cell, hfb, State.cell]
  refine ⟨w, hw, fun r c => ?restored, fun ⟨r, c, hbit⟩ hoff => hhit ⟨r, c, ?on, (hsame r c).2 hbit⟩⟩
  case restored =>
    obtain ⟨hone, hzero⟩ := hcell r c
    obtain ⟨hone', hzero'⟩ := hcell' r c
    by_cases hbit : spriteBit s x y n.toNat r c
    · rw [hone' ((hsame r c).2 hbit), hcells, hone hbit, Bool.not_not]
    · rw [hzero' (mt (hsame r c).1 hbit), hcells, hzero hbit]
  case on =>
    rw [hcells, (hcell r c).1 hbit, hoff r c hbit, Bool.not_false]

end Sys2Proof.Machine
end

section
/-! PROOFS. Family `44_timers_keys.md`: the timers as numbers, the key that a skip tests and the key that FX0A stores. A read
of the delay timer and the store of a key are `writeAndAdvance` of `41_alu.md`; what `KEY_PICK` may answer is said by
`keyPick_eq_none` and `keyPick_pressed`. -/

namespace Sys2Proof.Machine

open Sys2Proof.Claims

/-! ### Timers (R220 to R222, R260) -/

/-- The frame of an instruction that sets a timer: the timers and `pc` may be any. -/
theorem writesOnlyTimers_update (s : State) (DT ST : Byte) (pc : Word) : WritesOnlyTimers s { s with DT, ST, pc } :=
  ⟨keepsRegs_refl [] s, rfl, fun _ => rfl, ⟨fun _ _ => rfl, rfl⟩, ⟨rfl, fun _ => rfl⟩,
    ⟨fun _ => rfl, rfl, rfl, rfl, rfl⟩, rfl⟩

/-- Settles O50: FX07 is a register load, and FX15 and FX18 each write one timer. -/
theorem timerInstructionsMoveBytes : Obligations.TimerInstructionsMoveBytes := fun s x =>
  ⟨writeAndAdvance_spec x s.DT s, ⟨_, rfl, rfl, rfl, rfl, writesOnlyTimers_update s _ _ _⟩,
    ⟨_, rfl, rfl, rfl, rfl, writesOnlyTimers_update s _ _ _⟩⟩

/-- Subtraction on the naturals has R260's floor of zero. -/
theorem toNat_timerDown (v : Byte) : (timerDown v).toNat = v.toNat - 1 := by
  unfold timerDown
  split
  · next hzero => rw [hzero]; rfl
  · next hne => bv_omega

/-- Settles O55, by induction on the number of ticks. -/
theorem timersReachZeroAfterTheirCount : Obligations.TimersReachZeroAfterTheirCount := by
  intro s n
  induction n with
  | zero => exact ⟨rfl, rfl⟩
  | succ n ih =>
    obtain ⟨hDT, hST⟩ := ih
    rw [Function.iterate_succ_apply']
    refine ⟨(toNat_timerDown _).trans ?_, (toNat_timerDown _).trans ?_⟩
    · rw [hDT, Nat.sub_sub]
    · rw [hST, Nat.sub_sub]

/-! ### Key skips (R223, R224) -/

/-- A key skip runs on the key that the whole value of the register names. -/
theorem withKey_of_toNat_eq {x : RegIdx} {s : State} {k : Fin 16} (run : Fin 16 → State)
    (h : (s.reg x).toNat = k.val) : withKey x s run = .next (run k) := by
  have hlt : (s.reg x).toNat < 16 := h ▸ k.isLt
  have hkey : (⟨(s.reg x).toNat, hlt⟩ : Fin 16) = k := Fin.ext h
  rw [withKey, dif_pos hlt, hkey]

theorem exec_skp {x : RegIdx} {s : State} {k : Fin 16} (h : (s.reg x).toNat = k.val) :
    exec (.skp x) s = .next (s.skipIf (s.key k)) :=
  withKey_of_toNat_eq (fun j => s.skipIf (s.key j)) h

theorem exec_sknp {x : RegIdx} {s : State} {k : Fin 16} (h : (s.reg x).toNat = k.val) :
    exec (.sknp x) s = .next (s.skipIf (!s.key k)) :=
  withKey_of_toNat_eq (fun j => s.skipIf (!s.key j)) h

/-- EXA1 skips when EX9E does not: the two targets change places (R224). -/
theorem skipIf_not_pc (s : State) (b : Bool) : (s.skipIf (!b)).pc = if b then s.pc + 2 else s.pc + 4 := by
  cases b <;> rfl

/-- Settles O51: a key skip that names a key writes `pc` alone; above 15 R240's table gives the fault. -/
theorem keySkipsTestNamedLatch : Obligations.KeySkipsTestNamedLatch := fun s _ =>
  ⟨fun _ hk => ⟨⟨_, exec_skp hk, rfl, writesOnlyRegsNoDraw_setPc s _⟩,
      ⟨_, exec_sknp hk, skipIf_not_pc s _, writesOnlyRegsNoDraw_setPc s _⟩⟩,
    fun habove => ⟨exec_of_faultOf (if_pos habove), exec_of_faultOf (if_pos habove)⟩⟩

/-! ### The key wait (R225) -/

theorem exec_wkey_of_released {s : State} (x : RegIdx) (h : ∀ k : Fin 16, s.key k = false) :
    exec (.wkey x) s = .next s := by
  have hpick : keyPick s.keys = none := (keyPick_eq_none s.keys).2 h
  rw [exec, execWkey, hpick]

theorem exec_wkey_of_keyPick {s : State} {k : Fin 16} (x : RegIdx) (h : keyPick s.keys = some k) :
    exec (.wkey x) s = writeAndAdvance x (BitVec.ofNat 8 k.val) s := by
  rw [exec, execWkey, h]
  rfl

theorem exists_keyPick_of_pressed {s : State} (h : ∃ k : Fin 16, s.key k = true) :
    ∃ k : Fin 16, keyPick s.keys = some k ∧ s.key k = true := by
  cases hpick : keyPick s.keys with
  | none =>
    obtain ⟨k, hk⟩ := h
    have hup : s.key k = false := (keyPick_eq_none s.keys).1 hpick k
    exact absurd (hup.symm.trans hk) Bool.false_ne_true
  | some k => exact ⟨k, rfl, keyPick_pressed hpick⟩

/-- FX0A with a key pressed: it loads the register with the index of a pressed key. -/
theorem exec_wkey_of_pressed {s : State} (x : RegIdx) (h : ∃ k : Fin 16, s.key k = true) :
    ∃ (t : State) (k : Fin 16), exec (.wkey x) s = .next t ∧ s.key k = true ∧ (t.reg x).toNat = k.val ∧
      t.pc = s.pc + 2 ∧ WritesOnlyRegsNoDraw [x] s t := by
  obtain ⟨k, hpick, hk⟩ := exists_keyPick_of_pressed h
  obtain ⟨t, ht, hx, hpc, hframe⟩ := writeAndAdvance_spec x (BitVec.ofNat 8 k.val) s
  have hindex : (t.reg x).toNat = k.val := by rw [hx, BitVec.toNat_ofNat]; omega
  exact ⟨t, k, (exec_wkey_of_keyPick x hpick).trans ht, hk, hindex, hpc, hframe⟩

/-- Settles O52: by whether a key is pressed; the key stored is pressed, so it is the only one where there is only one. -/
theorem keyWaitStoresPressedKey : Obligations.KeyWaitStoresPressedKey := by
  refine fun s x => ⟨exec_wkey_of_released x, exec_wkey_of_pressed x, fun k hk honly => ?_⟩
  obtain ⟨t, j, ht, hj, hindex, -⟩ := exec_wkey_of_pressed x ⟨k, hk⟩
  have hjk : j = k := by
    by_contra hne
    exact absurd ((honly j hne).symm.trans hj) Bool.false_ne_true
  exact ⟨t, ht, hjk ▸ hindex⟩

end Sys2Proof.Machine
end

section
/-! PROOFS. Family `60_exceptions.md`: what a fault writes, when an instruction raises one, the way out of `Faulted`, and the
events `Tick`, `SetKeys` and `AckRedraw`. All of it is read off what an instruction, a `Step` and the next event can do
(`exec_cases`, `stepEvent_cases`, `step_cases`), with one fact added: an instruction that completes leaves `status` alone. -/

namespace Sys2Proof.Machine

open Sys2Proof.Claims

/-! ### Where an instruction faults (R240, R242 to R245, R247) -/

/-- Only a fault writes `status`. -/
theorem Effect.status {i : Instr} {s t : State} (he : Effect s i t) : t.status = s.status := by
  cases he with
  | _ => rfl

/-- Settles O13: an instruction answers with the fault of the table or, where there is none, with one of its effects. -/
theorem instructionFaultsExactlyAsTabled : Obligations.InstructionFaultsExactlyAsTabled := by
  refine fun i s => ⟨fun c => exec_of_faultOf, fun hnone => ?_⟩
  obtain ⟨t, ht⟩ := exec_answers_next i s
  rcases exec_cases ht with ⟨c, hfault, -⟩ | ⟨-, he⟩
  · cases hnone.symm.trans hfault
  · exact ⟨t, ht, he.status⟩

/-! ### What a faulting step writes (R246) -/

/-- An instruction that leaves `Running` took a fault. -/
theorem eq_faultedWith_of_exec {i : Instr} {s t : State} {c : Fault} (hr : s.status = .running)
    (h : exec i s = .next t) (hc : t.status = .faulted c) : t = s.faultedWith c := by
  rcases exec_cases h with ⟨c', -, rfl⟩ | ⟨-, he⟩
  · cases hc; rfl
  · cases hr.symm.trans (he.status.symm.trans hc)

/-- The event `Step` that leaves `Running` took a fault: that of the fetch or of the instruction. -/
theorem StepEffect.eq_faultedWith {s t : State} {c : Fault} (he : StepEffect s t) (hr : s.status = .running)
    (hc : t.status = .faulted c) : t = s.faultedWith c := by
  cases he with
  | idle hstatus => exact absurd hr hstatus
  | fetchFault => cases hc; rfl
  | reserved => cases hr.symm.trans hc
  | instr _ _ _ hexec => exact eq_faultedWith_of_exec hr hexec hc

/-- Settles O12: the two forms of the agenda are the two ways a `Step` is due. -/
theorem faultingStepWritesOnlyStatus : Obligations.FaultingStepWritesOnlyStatus := by
  intro s t c hr hstep hc
  have hdue : ∀ u, stepDue s u → t = u.faultedWith c := by
    intro u hu
    have hur : u.status = .running := by rw [eq_setAgenda_of_stepDue hu]; exact hr
    have hevent : stepEvent u = .next t := by rw [stepEvent_running hur, ← step_of_stepDue hu hr, hstep]
    exact (stepEvent_cases hevent).eq_faultedWith hur hc
  exact ⟨fun hnil => hdue s (.inl ⟨hnil, rfl⟩), fun es hcons => hdue _ (.inr ⟨es, hcons, rfl⟩)⟩

/-! ### The way out of `Faulted` (R248, R249) -/

/-- An accepted `Load` leaves the machine `Running`, whatever `status` was. -/
theorem State.load_status_of_accepted (s : State) {rom : List Byte} (b : Bool) (hlen : rom.length ≤ 3584) :
    (s.load rom b).status = .running := by
  rcases s.load_cases rom b with ⟨-, he⟩ | ⟨hlong, -⟩
  · rw [he]; rfl
  · omega

theorem State.load_status_of_rejected (s : State) {rom : List Byte} (b : Bool) (hlong : 3584 < rom.length) :
    (s.load rom b).status = s.status := by
  rcases s.load_cases rom b with ⟨hlen, -⟩ | ⟨-, he⟩
  · omega
  · rw [he]

/-- Outside `Running` the event `Step` changes nothing (R120). -/
theorem StepEffect.eq_of_not_running {s t : State} (he : StepEffect s t) (hr : s.status ≠ .running) : t = s := by
  cases he with
  | idle => rfl
  | fetchFault hstatus | reserved hstatus | instr hstatus => exact absurd hstatus hr

/-- Of the events other than `Step`, only an accepted `Load` writes `status`. -/
theorem perform_status {e : Event} {s t : State} (hstep : e ≠ .step)
    (hrejected : ∀ rom b, e = .load rom b → 3584 < rom.length) (h : perform e s = .next t) : t.status = s.status := by
  cases e with
  | step => exact absurd rfl hstep
  | load rom b => cases h; exact s.load_status_of_rejected b (hrejected rom b rfl)
  | tick | setKeys | ackRedraw => cases h; rfl

/-- Settles O14: by what the next event can be; a `Step` finds the machine not `Running`. -/
theorem onlyLoadLeavesFaulted : Obligations.OnlyLoadLeavesFaulted := by
  refine fun s c hc => ⟨fun rom b es hload hlen => ?accepted, fun t hstep hrejected => ?other⟩
  case accepted =>
    exact ⟨_, step_of_agenda_cons hload, State.load_status_of_accepted _ b hlen⟩
  case other =>
    rcases step_cases hstep with ⟨u, hu, he⟩ | ⟨e, es, hcons, hne, he⟩
    · have huc : u.status = .faulted c := by rw [eq_setAgenda_of_stepDue hu]; exact hc
      have hur : u.status ≠ .running := by rw [huc]; nofun
      rw [he.eq_of_not_running hur, huc]
    · have hkept : t.status = (s.setAgenda es).status :=
        perform_status hne (fun rom b hload => hrejected rom b es (hload ▸ hcons)) he
      exact hkept.trans hc

/-! ### The host's other events (R260, R263, R264) -/

/-- Settles O54: each timer goes down as `toNat_timerDown` says, and `Tick` writes the two timers alone. -/
theorem tickDecrementsTimers : Obligations.TickDecrementsTimers := fun s _ hcons =>
  ⟨_, step_of_agenda_cons hcons, toNat_timerDown s.DT, toNat_timerDown s.ST, rfl⟩

/-- Settles O56: each event, taken off the agenda, updates one field. -/
theorem hostLatchEventsWriteOneElement : Obligations.HostLatchEventsWriteOneElement := fun _ _ _ =>
  ⟨fun hcons => ⟨_, step_of_agenda_cons hcons, fun _ => rfl, rfl⟩, fun hcons => step_of_agenda_cons hcons⟩

end Sys2Proof.Machine
end

section
/-! PROOFS. Family `70_reset_and_hazards.md`: what an accepted `Load` leaves in the state and in memory (R282 to R285), and
that a rejected one changes nothing (R281). Memory after an accepted `Load` lists the image alone, so the image reads back
from the list and the font is what the unlisted addresses below it read as. -/

namespace Sys2Proof.Machine

/-! ### Memory and state after an accepted `Load` (R283 to R285) -/

theorem State.loadImage_read? (s : State) (rom : List Byte) (b : Bool) (a : Nat) :
    (s.loadImage rom b).mem.read? a = if 0x200 ≤ a ∧ a < 0x200 + rom.length then rom[a - 0x200]? else none :=
  Memory.read?_writeBytes [] 0x200 rom a

theorem State.loadImage_memByte_image (s : State) (b : Bool) {rom : List Byte} {k : Nat} (h : k < rom.length) :
    (s.loadImage rom b).memByte (0x200 + k) = rom[k] := by
  have hlisted : (s.loadImage rom b).mem.read? (0x200 + k) = some rom[k] := by
    rw [State.loadImage_read?, if_pos (by omega), Nat.add_sub_cancel_left, List.getElem?_eq_getElem h]
  rw [State.memByte, hlisted, Option.getD_some]

theorem State.loadImage_memByte_font (s : State) (rom : List Byte) (b : Bool) {a : Nat} (h : a < 80) :
    (s.loadImage rom b).memByte a = Config.font a := by
  have hunlisted : (s.loadImage rom b).mem.read? a = none := by
    rw [State.loadImage_read?, if_neg (by omega)]
  rw [State.memByte, hunlisted, Option.getD_none, State.unlistedByte, if_pos h]

theorem State.loadImage_stack (s : State) (rom : List Byte) (b : Bool) (k : Fin 16) :
    (s.loadImage rom b).stack[k] = 0 :=
  Vector.getElem_replicate k.isLt

/-! ### The event `Load` (R281, R282) -/

theorem step_of_load_accepted {s : State} {rom : List Byte} {b : Bool} {es : List Event}
    (hload : s.agenda = .load rom b :: es) (hlen : rom.length ≤ 3584) :
    step s = .next ((s.setAgenda es).loadImage rom b) := by
  rcases (s.setAgenda es).load_cases rom b with ⟨-, he⟩ | ⟨hlong, -⟩
  · rw [step_of_agenda_cons hload, perform, he]
  · omega

/-- Settles O57, value by value: the registers and the cells are those of reset. -/
theorem loadResetsAndCopiesImage : Obligations.LoadResetsAndCopiesImage := by
  intro s rom b es hload hlen
  refine ⟨_, step_of_load_accepted hload hlen, State.reset_reg, rfl, rfl, State.loadImage_stack _ rom b, rfl, rfl, rfl,
    State.reset_cell, rfl, rfl, ?image, ?font⟩
  case image => exact fun _ => State.loadImage_memByte_image _ b
  case font => exact fun _ => State.loadImage_memByte_font _ rom b

/-- Settles O58: the `Load` comes off the agenda, and too long an image is only reported. -/
theorem rejectedLoadChangesNothing : Obligations.RejectedLoadChangesNothing := by
  intro s rom b es hload hlong
  rcases (s.setAgenda es).load_cases rom b with ⟨hlen, -⟩ | ⟨-, he⟩
  · omega
  · rw [step_of_agenda_cons hload, perform, he]
    rfl

end Sys2Proof.Machine
end
